-- ==== Sys2Proof/Word.lean ====
section
/-! DEFINITION. The unsigned values the core works on, by width (00_scope R11, 10_state R27). -/

namespace Sys2Proof

/-- A byte: an 8-bit unsigned value (R11). -/
abbrev Byte := BitVec 8

/-- A word16: a 16-bit unsigned value (R11). -/
abbrev Word16 := BitVec 16

/-- A command word (30_encoding R60). -/
abbrev Word48 := BitVec 48

end Sys2Proof
end

