-- ==== Sys2Proof/Syntax.lean ====
section
/-! DEFINITION. The commands of the core, one constructor per row of spec/opcode_table.json (30_encoding R64),
and the source lines of the assembler (R68, R69). -/

namespace Sys2Proof

/-- A command with its operands.  Each operand is exactly as wide as its field (R63). -/
inductive Instr where
  /-- CRC_INIT: start a checksum computation (40_checksum R90). -/
  | crcInit
  /-- CRC_UPDATE: fold one byte into the checksum (R91). -/
  | crcUpdate (b : Byte)
  /-- CRC_READ: emit the checksum (R92). -/
  | crcRead
  /-- FRAME_READ_MEM: build one READ_MEM frame and emit it (41_frame R115). -/
  | frameReadMem (tag : Byte) (sb nb : Word16)
  deriving DecidableEq, Repr

/-- One line of assembler text, its operands as the numbers written (R68).  A number may be out of its range:
`AsmLine.wellFormed` says when it is. -/
inductive AsmLine where
  /-- `crc.init` -/
  | crcInit
  /-- `crc.update <byte>` -/
  | crcUpdate (byte : Nat)
  /-- `crc.read` -/
  | crcRead
  /-- `frame.readmem <tag>, <start>, <count>` -/
  | frameReadmem (tag start count : Nat)
  /-- The pseudo-instruction `crc.checksum b0, b1, ...` (R69). -/
  | crcChecksum (bytes : List Nat)
  deriving DecidableEq, Repr

end Sys2Proof
end

