-- ==== Sys2Proof/WellFormed.lean ====
section
/-! DEFINITION. Which commands and which assembler lines are well formed (30_encoding R63, R68). -/

namespace Sys2Proof

/-- Every command is well formed: every value of each field is a legal operand (R63, 60_exceptions R130), and a
field's type is exactly its width, so an operand out of range cannot be written. -/
def Instr.wellFormed : Instr → Bool
  | .crcInit => true
  | .crcUpdate _ => true
  | .crcRead => true
  | .frameReadMem _ _ _ => true

/-- A number that fits a byte operand: 0..255 (R68). -/
def fitsByte (n : Nat) : Bool := n < 256

/-- A number that fits a 16-bit operand: 0..65535 (R68). -/
def fitsWord16 (n : Nat) : Bool := n < 65536

/-- A line whose operands are all in their ranges (the table of R68; R69 for the pseudo-instruction). -/
def AsmLine.wellFormed : AsmLine → Bool
  | .crcInit => true
  | .crcUpdate byte => fitsByte byte
  | .crcRead => true
  | .frameReadmem tag start count => fitsByte tag && fitsWord16 start && fitsWord16 count
  | .crcChecksum bytes => bytes.all fitsByte

end Sys2Proof
end

