-- ==== Sys2Proof/Decode.lean ====
section
/-! DEFINITION. Command words: their fields, the decoder, the opcode table's match and mask rows, the encoder
(30_encoding R60 to R67). -/

namespace Sys2Proof

/-- `OPC`, bits 47:40 (R60, R61). -/
def opcField (w : Word48) : Byte := w.extractLsb' 40 8

/-- `B`, bits 39:32. -/
def bField (w : Word48) : Byte := w.extractLsb' 32 8

/-- `SB`, bits 31:16. -/
def sbField (w : Word48) : Word16 := w.extractLsb' 16 16

/-- `NB`, bits 15:0. -/
def nbField (w : Word48) : Word16 := w.extractLsb' 0 16

/-- The 40 operand bits, 39:0. -/
def operandBits (w : Word48) : BitVec 40 := w.extractLsb' 0 40

/-- Bits 31:0, which format B requires to be zero (R62). -/
def lowBits (w : Word48) : BitVec 32 := w.extractLsb' 0 32

/-- The command word with the four given fields (R60). -/
def packWord (opc b : Byte) (sb nb : Word16) : Word48 := opc ++ b ++ sb ++ nb

/-- What decoding gives: a command, or the word itself as illegal (R65). -/
inductive Decoded where
  /-- The word encodes this command. -/
  | command (i : Instr)
  /-- The word is no command (R66). -/
  | illegal (w : Word48)
  deriving DecidableEq, Repr

/-- The decoder, total on every 48-bit word (R65). -/
def decode (w : Word48) : Decoded :=
  if opcField w = 0x01#8 ∧ operandBits w = 0#40 then .command .crcInit
  else if opcField w = 0x02#8 ∧ lowBits w = 0#32 then .command (.crcUpdate (bField w))
  else if opcField w = 0x03#8 ∧ operandBits w = 0#40 then .command .crcRead
  else if opcField w = 0x10#8 then .command (.frameReadMem (bField w) (sbField w) (nbField w))
  else .illegal w

/-- The command a word encodes, if it encodes one. -/
def Decoded.instr? : Decoded → Option Instr
  | .command i => some i
  | .illegal _ => none

/-- Why a word is illegal (R66). -/
inductive IllegalReason where
  /-- Its opcode is in no row of the opcode map. -/
  | unassignedOpcode
  /-- Its opcode is assigned and a bit that its format requires to be zero is one. -/
  | nonzeroBits
  deriving DecidableEq, Repr

/-- R66: the reason a word is illegal; `none` for a legal one. -/
def illegalReason (w : Word48) : Option IllegalReason :=
  if opcField w = 0x10#8 then none
  else if opcField w = 0x01#8 ∨ opcField w = 0x03#8 then
    if operandBits w = 0#40 then none else some .nonzeroBits
  else if opcField w = 0x02#8 then
    if lowBits w = 0#32 then none else some .nonzeroBits
  else some .unassignedOpcode

/-- A row of the opcode map: its mnemonic, match and mask (R64). -/
structure OpcodeRow where
  mnemonic : String
  matchBits : Word48
  mask : Word48
  deriving DecidableEq, Repr

/-- A word selects a row when `(w AND mask) = match` (R64). -/
def OpcodeRow.selects (r : OpcodeRow) (w : Word48) : Bool := w &&& r.mask == r.matchBits

/-- The opcode map (R64, spec/opcode_table.json). -/
def opcodeMap : List OpcodeRow :=
  [ ⟨"CRC_INIT", 0x010000000000#48, 0xFFFFFFFFFFFF#48⟩,
    ⟨"CRC_UPDATE", 0x020000000000#48, 0xFF00FFFFFFFF#48⟩,
    ⟨"CRC_READ", 0x030000000000#48, 0xFFFFFFFFFFFF#48⟩,
    ⟨"FRAME_READ_MEM", 0x100000000000#48, 0xFF0000000000#48⟩ ]

/-- The row of a command. -/
def Instr.row : Instr → OpcodeRow
  | .crcInit => ⟨"CRC_INIT", 0x010000000000#48, 0xFFFFFFFFFFFF#48⟩
  | .crcUpdate _ => ⟨"CRC_UPDATE", 0x020000000000#48, 0xFF00FFFFFFFF#48⟩
  | .crcRead => ⟨"CRC_READ", 0x030000000000#48, 0xFFFFFFFFFFFF#48⟩
  | .frameReadMem _ _ _ => ⟨"FRAME_READ_MEM", 0x100000000000#48, 0xFF0000000000#48⟩

/-- The word of a command (formats Z, B and F of R62, opcodes of R64). -/
def encode : Instr → Word48
  | .crcInit => packWord 0x01#8 0#8 0#16 0#16
  | .crcUpdate b => packWord 0x02#8 b 0#16 0#16
  | .crcRead => packWord 0x03#8 0#8 0#16 0#16
  | .frameReadMem tag sb nb => packWord 0x10#8 tag sb nb

/-- The word whose lowest `nbits` bits are those of `w` and whose other bits are zero: a command word is one
transfer of 48 bits, so this is the whole of it. -/
def tableWord (nbits w : Nat) : Word48 := BitVec.ofNat 48 (w % 2 ^ nbits)

/-- The command read from a word numbered as the opcode table numbers it; `none` where the decoder refuses. -/
def decodeTableWord (nbits w : Nat) : Option Instr := (decode (tableWord nbits w)).instr?

end Sys2Proof
end

