-- ==== Sys2Proof/Machine/Operands.lean ====
section
/-! DEFINITION. The operators of 00_scope R12, byte order (20_memory R46) and the hardwired constants (10_state R22). -/

namespace Sys2Proof.Machine

/-- `POLY`. -/
def polyValue : Word16 := 0x1021#16
/-- `INIT`. -/
def initValue : Word16 := 0xFFFF#16
/-- `MSG_LEN`, the number of frame bytes after it (41_frame R112). -/
def msgLen : Byte := 0x09#8
/-- `FLAGS`. -/
def flagsByte : Byte := 0x00#8
/-- `COMMAND_READ_MEM`. -/
def commandReadMem : Byte := 0x20#8

/-- `shl1_16(v)`: shift left one bit, bit 15 lost, 0 into bit 0. -/
def shl1 (v : Word16) : Word16 := v <<< 1

/-- `zext_16(b)`. -/
def zext16 (b : Byte) : Word16 := b.setWidth 16

/-- `b << 8` on a byte: `b` in bits 15..8, zero in bits 7..0. -/
def byteHigh (b : Byte) : Word16 := zext16 b <<< 8

/-- `hi8(v)`, bits 15..8. -/
def hi8 (v : Word16) : Byte := v.extractLsb' 8 8

/-- `lo8(v)`, bits 7..0. -/
def lo8 (v : Word16) : Byte := v.extractLsb' 0 8

/-- A word16 as it leaves the core: most significant byte first (20_memory R46). -/
def bigEndian (v : Word16) : List Byte := [hi8 v, lo8 v]

end Sys2Proof.Machine
end

