-- ==== Sys2Proof/Config.lean ====
section
/-! DEFINITION. What an implementation fixes and the spec leaves open (00_scope R10, 92_eei_decisions D13). -/

namespace Sys2Proof

/-- One less than `T_RESET`: a number without a value, so that nothing can be proved of it (log 9). -/
opaque Config.tResetLessOne : Nat

/-- `T_RESET`, the least number of consecutive rising edges `rst` must be high: a parameter, at least 1
(70_reset R151).  The other two parameters of R10, `T_BIT` and `T_EMIT`, are the draws of
`Machine.Pace` (log 10). -/
def Config.tReset : Nat := Config.tResetLessOne + 1

end Sys2Proof
end

