-- ==== Sys2Proof/Machine/State.lean ====
section
/-! DEFINITION. The state of the core, the host's moves, the reasons a step can stop, the state after reset
(10_state R20 to R31, 20_memory R41 to R56). -/

namespace Sys2Proof.Machine

/-- Why a step stops with a fault. -/
inductive Fault where
  /-- IllegalCommand(w), the only fault of the spec (60_exceptions R131): the accepted word `w` encodes no command.
  Raised where a word is accepted (`acceptWord`, and an edge that accepts one).  Safe: the hardware discards
  the word and goes on, and the model has no run past it (log 3). -/
  | illegalCommand (w : Word48)
  /-- The run has already faulted and takes no further command (R131: no run past an illegal word).  Raised by every
  host move but reset in a state whose mark `faulted` is set.  Safe (log 3). -/
  | alreadyFaulted
  deriving DecidableEq, Repr

/-- Why a step has no meaning. -/
inductive Refusal where
  /-- An instruction without a meaning.  No arm of `exec` answers it.  Safe. -/
  | notModelled (mnemonic : String)
  /-- `rst` was low again before `T_RESET` edges: the spec calls the state that leaves unspecified (70_reset R151,
  93_implementation_defined I5: refuse).  Raised by host moves.  Safe (log 9). -/
  | shortReset
  /-- The host changed or withdrew a command word before it was accepted: behaviour not specified (20_memory R42,
  I9: refuse).  Raised by host moves.  Safe (log 11). -/
  | unstableCommandWord
  deriving DecidableEq, Repr

/-- The levels of the core's input ports at one rising edge of `clk` (R41). -/
structure Pins where
  rst : Bool
  cmdValid : Bool
  cmdWord : Word48
  outReady : Bool
  deriving DecidableEq, Repr

/-- What an implementation's pace is at one edge: whether its engine makes a bit step there, and whether it presents
a pending output byte from there on.  Both are draws: `T_BIT` and `T_EMIT` are parameters without a value
(00_scope R10, 70_reset R170), and every pace is some sequence of these (log 10). -/
structure Pace where
  bit : Bool
  emit : Bool
  deriving DecidableEq, Repr

/-- One move of the host (R56). -/
inductive HostMove where
  /-- Present `w`, hold it until it is accepted, and take every byte of its output. -/
  | command (w : Word48)
  /-- Hold `rst` high for `edges` edges, then low (70_reset R150, R151). -/
  | reset (edges : Nat)
  /-- Present `w` until it is accepted, take `taken` bytes of its output, then hold `rst` high for `edges` edges
  (R152). -/
  | interrupted (w : Word48) (taken : Nat) (edges : Nat)
  /-- One rising edge of `clk` with the input ports at these levels. -/
  | edge (pins : Pins) (pace : Pace)
  deriving DecidableEq, Repr

/-- The state of the core, with the model's own fields last. -/
structure State where
  /-- The Checksum Engine's accumulator (10_state R20). -/
  acc : Word16
  /-- Every byte the host has taken, in order, across resets (R30, 20_memory R45). -/
  out : List Byte
  /-- The model's fault mark, never cleared (R30, 60_exceptions R131). -/
  faulted : Bool
  /-- A command is in progress (R28). -/
  busy : Bool
  /-- Bit steps done in the current byte update (R28). -/
  bitcnt : BitVec 4
  /-- The Frame Builder's private accumulator (R28, 41_frame R116). -/
  facc : Word16
  /-- Index of the next frame byte to checksum or to emit (R28). -/
  fidx : BitVec 4
  /-- The operand fields of the command in progress, latched at acceptance (R28). -/
  opnd : BitVec 40
  /-- Bytes of the current command not yet taken (R28). -/
  outq : List Byte
  /-- The opcode latched with `opnd` (R42 latches all of `cmd_word`; log 6). -/
  opc : Byte
  /-- The first byte of `outq` is presented on `out_byte` (R44; log 7). -/
  shown : Bool
  /-- The word presented at the last edge and not accepted there (R42; log 7). -/
  offered : Option Word48
  /-- How many edges in a row `rst` has been high (70_reset R151; log 7). -/
  rstHeld : Nat
  /-- What the host does next, in order (R56; log 2). -/
  host : List HostMove
  deriving DecidableEq, Repr

/-- The state right after reset at the start of a run (R31; 95_test_vectors Part 3 for `out` and `faulted`).  `facc`,
`opnd` and `opc` have no value in the spec: zero is the model's choice (log 5). -/
def State.reset : State where
  acc := 0xFFFF#16
  out := []
  faulted := false
  busy := false
  bitcnt := 0#4
  facc := 0#16
  fidx := 0#4
  opnd := 0#40
  outq := []
  opc := 0#8
  shown := false
  offered := none
  rstHeld := 0
  host := []

end Sys2Proof.Machine
end

