-- ==== Sys2Proof/Machine/Ops.lean ====
section
/-! DEFINITION. The named operations on the state (00_scope R13): the accumulators, the output stream, latching a
command word, the reset event, the fault. -/

namespace Sys2Proof.Machine

/-- What a step answers. -/
abbrev StepResult := Host.Outcome State Fault Refusal

/-- `acc <- v`. -/
def State.setAcc (s : State) (v : Word16) : State := { s with acc := v }

/-- The Frame Builder's private accumulator `<- v` (41_frame R116). -/
def State.setFacc (s : State) (v : Word16) : State := { s with facc := v }

/-- `emit(bytes)`: `out <- out ++ bytes` (20_memory R45). -/
def State.emit (s : State) (bytes : List Byte) : State := { s with out := s.out ++ bytes }

/-- The core latches the accepted command word (R42); the host has nothing on offer any more, and `rst` is low. -/
def State.latch (s : State) (w : Word48) : State :=
  { s with opc := opcField w, opnd := operandBits w, offered := none, rstHeld := 0 }

/-- The latched command word. -/
def State.latched (s : State) : Word48 := s.opc ++ s.opnd

/-- The core is idle: no command in progress and every output byte taken (R43). -/
def State.idle (s : State) : Bool := !s.busy && s.outq.isEmpty

/-- The reset event: the reset state of 10_state R31 (70_reset R150), but what the host has taken, the fault mark and
the host's own moves stay (R154).  It ends a command in progress and discards bytes not yet taken (R152). -/
def State.applyReset (s : State) : State :=
  { State.reset with out := s.out, faulted := s.faulted, host := s.host }

/-- What the host does next. -/
def State.setHost (s : State) (moves : List HostMove) : State := { s with host := moves }

/-- The fault mark of a run that ended in a fault (60_exceptions R131). -/
def State.markFaulted (s : State) : State := { s with faulted := true }

/-- `raise IllegalCommand(w)` (00_scope R13, R131). -/
def raiseIllegal (w : Word48) : StepResult := .fault (.illegalCommand w)

/-- The cause code of a fault: IllegalCommand is cause 1 and no other cause exists (R132). -/
def Fault.cause : Fault → Nat
  | .illegalCommand _ => 1
  | .alreadyFaulted => 1

end Sys2Proof.Machine
end

