-- ==== Sys2Proof/Machine/Checksum.lean ====
section
/-! DEFINITION. The Checksum Engine: its functions (40_checksum R80 to R84) and its three commands (R90 to R92). -/

namespace Sys2Proof.Machine

/-- The bit step (R80): the test is on bit 15 before the shift. -/
def crcStep (a : Word16) : Word16 :=
  if a.getLsbD 15 then shl1 a ^^^ polyValue else shl1 a

/-- `n` bit steps. -/
def crcSteps : Nat → Word16 → Word16
  | 0, a => a
  | n + 1, a => crcSteps n (crcStep a)

/-- The byte update (R81). -/
def crcByte (a : Word16) (b : Byte) : Word16 := crcSteps 8 (a ^^^ byteHigh b)

/-- One round of the bit-serial form: feed the bit `x` (R82). -/
def serialStep (a : Word16) (x : Bool) : Word16 :=
  shl1 a ^^^ (if (a.getLsbD 15).xor x then polyValue else 0#16)

/-- The bit-serial form of the byte update, bit 7 of the byte first (R82). -/
def crcByteSerial (a : Word16) (b : Byte) : Word16 :=
  [7, 6, 5, 4, 3, 2, 1, 0].foldl (fun a i => serialStep a (b.getLsbD i)) a

/-- The checksum of a byte sequence (R84). -/
def crc16 (s : List Byte) : Word16 := s.foldl crcByte initValue

/-- CRC_INIT (R90). -/
def execCrcInit (s : State) : StepResult := .next (s.setAcc initValue)

/-- CRC_UPDATE (R91). -/
def execCrcUpdate (b : Byte) (s : State) : StepResult := .next (s.setAcc (crcByte s.acc b))

/-- CRC_READ (R92). -/
def execCrcRead (s : State) : StepResult := .next (s.emit (bigEndian s.acc))

end Sys2Proof.Machine
end

