-- ==== Sys2Proof/Machine/FrameBuilder.lean ====
section
/-! DEFINITION. The Frame Builder and its command (41_frame R110 to R118). -/

namespace Sys2Proof.Machine

/-- Bytes 0 to 7 of the frame, the message `m` of R115 (offsets of R110). -/
def frameMessage (tag : Byte) (sb nb : Word16) : List Byte :=
  [msgLen, flagsByte, commandReadMem, tag] ++ bigEndian sb ++ bigEndian nb

/-- The frame's checksum: over bytes 0 to 7 (R113). -/
def frameCrc (tag : Byte) (sb nb : Word16) : Word16 := crc16 (frameMessage tag sb nb)

/-- The READ_MEM frame (R110). -/
def frameBytes (tag : Byte) (sb nb : Word16) : List Byte :=
  frameMessage tag sb nb ++ bigEndian (frameCrc tag sb nb)

/-- FRAME_READ_MEM (R115): the checksum is computed on the private accumulator (R116), `acc` is neither read nor
written. -/
def execFrameReadMem (tag : Byte) (sb nb : Word16) (s : State) : StepResult :=
  .next ((s.setFacc (frameCrc tag sb nb)).emit (frameBytes tag sb nb))

end Sys2Proof.Machine
end

