-- ==== Sys2Proof/Machine/Clock.lean ====
section
/-! DEFINITION. The hardware edge by edge: the ports and handshakes (20_memory R41 to R44), the working state
(10_state R28), reset at an edge (70_reset R150).  The engine follows the reference microarchitecture of R170, at the
pace the draws give (log 10, log 18). -/

namespace Sys2Proof.Machine

/-- The levels of the output ports.  `out_byte` and `out_last` have a level only while a byte is presented
(log 15). -/
structure PinsOut where
  cmdReady : Bool
  outValid : Bool
  outByte : Option Byte
  outLast : Option Bool
  deriving DecidableEq, Repr

/-- The command in progress: the latched word, decoded. -/
def State.current (s : State) : Option Instr := (decode s.latched).instr?

/-- `cmd_ready`: `rst` is low and the core is idle (R43). -/
def State.cmdReady (s : State) (rst : Bool) : Bool := !rst && s.idle

/-- `out_valid`: a byte is pending and presented, and `rst` is low (R44, R150). -/
def State.outValid (s : State) (rst : Bool) : Bool := !rst && s.shown && !s.outq.isEmpty

/-- The command in progress has put its last output byte into `outq`: CRC_READ does so at acceptance,
FRAME_READ_MEM when `fidx` has reached 10. -/
def State.outputComplete (s : State) : Bool :=
  match s.current with
  | some (.frameReadMem _ _ _) => decide (10 ≤ s.fidx.toNat)
  | _ => true

/-- `out_last`: the presented byte is the last of the command's output (R44). -/
def State.outLast (s : State) : Bool := s.outputComplete && s.outq.length == 1

/-- The output ports (R41). -/
def State.pinsOut (s : State) (rst : Bool) : PinsOut where
  cmdReady := s.cmdReady rst
  outValid := s.outValid rst
  outByte := if s.outValid rst then s.outq.head? else none
  outLast := if s.outValid rst then some s.outLast else none

/-- The host takes the presented byte when `out_ready` is high (R44): it joins the output stream (R45). -/
def State.takeByte (s : State) (outReady : Bool) : State :=
  match s.outq with
  | [] => s
  | b :: rest =>
    if outReady && s.shown then { s with out := s.out ++ [b], outq := rest, shown := false } else s

/-- Present the first pending byte, if the pace has it presented from this edge on. -/
def State.present (s : State) (emit : Bool) : State :=
  if emit && !s.outq.isEmpty then { s with shown := true } else s

/-- Acceptance of a command (R42): the word is latched, and the working state is set up for `i`.  The two bytes
of CRC_READ are pending at once; the private accumulator starts from INIT (R116). -/
def State.start (s : State) (w : Word48) (i : Instr) : State :=
  let s := { s.latch w with busy := true, bitcnt := 0#4, fidx := 0#4 }
  match i with
  | .crcInit => s
  | .crcUpdate _ => s
  | .crcRead => { s with outq := bigEndian s.acc }
  | .frameReadMem _ _ _ => s.setFacc initValue

/-- Whether the engine is at the first bit step of a byte: the byte is folded in with it. -/
def State.firstBit (s : State) : Bool := s.bitcnt == 0#4

/-- A bit step on the accumulator value `a` that folds the byte `b` in first when it is the byte's first step
(R80, R81). -/
def foldStep (first : Bool) (a : Word16) (b : Byte) : Word16 :=
  crcStep (if first then a ^^^ byteHigh b else a)

/-- One bit step of a CRC_UPDATE in progress. -/
def State.workUpdate (s : State) (b : Byte) : State :=
  if s.bitcnt.toNat < 8 then
    { s with acc := foldStep s.firstBit s.acc b, bitcnt := s.bitcnt + 1#4 }
  else s

/-- One bit step of a FRAME_READ_MEM in progress: byte `fidx` goes to the output with its first step and is folded into
`facc`; after the last step of byte 7 the two checksum bytes follow (41_frame R117). -/
def State.workFrame (s : State) (tag : Byte) (sb nb : Word16) : State :=
  if s.fidx.toNat < 8 then
    let b := (frameMessage tag sb nb).getD s.fidx.toNat 0#8
    let f := foldStep s.firstBit s.facc b
    let q := if s.firstBit then s.outq ++ [b] else s.outq
    if s.bitcnt.toNat < 7 then { s with facc := f, outq := q, bitcnt := s.bitcnt + 1#4 }
    else if s.fidx.toNat < 7 then { s with facc := f, outq := q, bitcnt := 0#4, fidx := s.fidx + 1#4 }
    else { s with facc := f, outq := q ++ bigEndian f, bitcnt := 0#4, fidx := 10#4 }
  else s

/-- What the engine does for the command in progress at an edge where it makes a step. -/
def State.work (s : State) : State :=
  match s.current with
  | some .crcInit => s.setAcc initValue
  | some (.crcUpdate b) => s.workUpdate b
  | some .crcRead => s
  | some (.frameReadMem tag sb nb) => s.workFrame tag sb nb
  | none => s

/-- After an edge with a step or without (`stepped`): whether the engine has nothing left to do for the command. -/
def State.worked (s : State) (stepped : Bool) : Bool :=
  match s.current with
  | some .crcInit => stepped
  | some (.crcUpdate _) => decide (8 ≤ s.bitcnt.toNat)
  | some .crcRead => true
  | some (.frameReadMem _ _ _) => decide (10 ≤ s.fidx.toNat)
  | none => true

/-- The command is complete when the engine is done and every output byte is taken (R43): the core is idle. -/
def State.retire (s : State) (stepped : Bool) : State :=
  if s.worked stepped && s.outq.isEmpty then { s with busy := false, bitcnt := 0#4, fidx := 0#4 } else s

/-- An edge while a command is in progress or its output pending. -/
def State.advance (s : State) (outReady : Bool) (pace : Pace) : State :=
  let s := s.takeByte outReady
  let s := if s.busy && pace.bit then s.work else s
  (s.present pace.emit).retire pace.bit

/-- An edge at which the core is idle: a presented word is accepted; an illegal one is discarded with no change
(R131, hardware behaviour). -/
def State.acceptEdge (s : State) (pins : Pins) (pace : Pace) : State :=
  if pins.cmdValid then
    match decode pins.cmdWord with
    | .command i => (s.start pins.cmdWord i).present pace.emit
    | .illegal _ => { s with offered := none, rstHeld := 0 }
  else { s with offered := none, rstHeld := 0 }

/-- The word on offer after an edge at which none was accepted. -/
def Pins.offer (pins : Pins) : Option Word48 := if pins.cmdValid then some pins.cmdWord else none

/-- One rising edge of `clk` (R41).  Reset wins over everything (60_exceptions R133). -/
def State.clock (s : State) (pins : Pins) (pace : Pace) : State :=
  if pins.rst then { s.applyReset with rstHeld := s.rstHeld + 1, offered := pins.offer }
  else if s.idle then s.acceptEdge pins pace
  else { s.advance pins.outReady pace with offered := pins.offer, rstHeld := 0 }

/-- The pace of the reference microarchitecture: `T_BIT` = `T_EMIT` = 1 (70_reset R170). -/
def Pace.reference : Pace := ⟨true, true⟩

/-- The input levels of a host that presents `w` and takes output. -/
def Pins.presenting (w : Word48) : Pins := ⟨false, true, w, true⟩

/-- The input levels of a host that presents no command, with `out_ready` as given. -/
def Pins.quiet (outReady : Bool) : Pins := ⟨false, false, 0#48, outReady⟩

/-- The edges after acceptance a command takes in the reference microarchitecture, the host taking every byte at once
(the table of 70_reset R170 with `T_BIT` = `T_EMIT` = 1: 1, 8, 2 and 64 + 2). -/
def referenceCycles : Instr → Nat
  | .crcInit => 1
  | .crcUpdate _ => 8
  | .crcRead => 2
  | .frameReadMem _ _ _ => 66

/-- Edges with no command presented, each with its `out_ready` and its pace. -/
def State.clockQuiet (s : State) : List (Bool × Pace) → State
  | [] => s
  | (outReady, pace) :: rest => State.clockQuiet (s.clock (Pins.quiet outReady) pace) rest

/-- `n` edges of the reference microarchitecture under a host that takes every byte at once. -/
def State.clockReference (s : State) (n : Nat) : State :=
  s.clockQuiet (List.replicate n (true, Pace.reference))

end Sys2Proof.Machine
end

