-- ==== Sys2Proof/Machine/Transaction.lean ====
section
/-! DEFINITION. What each move of the host does (20_memory R56): a whole command, a reset, a command cut short by
reset, one clock edge. -/

namespace Sys2Proof.Machine

/-- The host changed or withdrew the word it had on offer (R42, I9: unspecified). -/
def State.offerProblem (s : State) (pins : Pins) : Option Refusal :=
  match s.offered with
  | none => none
  | some w => if pins.cmdValid && pins.cmdWord == w then none else some .unstableCommandWord

/-- What the spec leaves unspecified at an edge with these input levels: a reset released before `T_RESET` edges
(70_reset R151, I5), or a word that did not stay on offer (R42, I9).  While `rst` is high the reset state is
entered whatever else the host does (R150). -/
def State.portProblem (s : State) (pins : Pins) : Option Refusal :=
  if pins.rst then none
  else if s.rstHeld = 0 then s.offerProblem pins
  else if s.rstHeld < Config.tReset then some .shortReset
  else s.offerProblem pins

/-- Acceptance of `w` by the idle core (R42): the command it encodes runs with `run`; an illegal word faults
(R131). -/
def acceptWord (w : Word48) (s : State) (run : Instr → State → StepResult) : StepResult :=
  match decode w with
  | .command i => run i (s.latch w)
  | .illegal w => raiseIllegal w

/-- The output of a command issued in state `s` (R45, R92, R115). -/
def commandOutput (i : Instr) (s : State) : List Byte :=
  match i with
  | .crcInit => []
  | .crcUpdate _ => []
  | .crcRead => bigEndian s.acc
  | .frameReadMem tag sb nb => frameBytes tag sb nb

/-- The end of a reset pulse of `edges` edges: the reset state, or unspecified when it was too short (R151). -/
def finishReset (edges : Nat) (s : State) : StepResult :=
  if edges < Config.tReset then .refused .shortReset else .next s.applyReset

/-- A command that reset ends after the host took `taken` bytes of its output (R152): those bytes stay taken. -/
def cutShort (taken edges : Nat) (i : Instr) (s : State) : StepResult :=
  finishReset edges (s.emit ((commandOutput i s).take taken))

/-- Present `w` in state `s`; `move` is the host's move that does so.  While the core is not idle the host holds the
word and takes output, one edge a step (R42, R43; log 13); when it is, the word is accepted. -/
def presentWord (w : Word48) (move : HostMove) (s : State) (run : Instr → State → StepResult) : StepResult :=
  if s.faulted then .fault .alreadyFaulted
  else
    match s.portProblem (Pins.presenting w) with
    | some r => .refused r
    | none =>
      if s.idle then acceptWord w s run
      else .next ((s.clock (Pins.presenting w) Pace.reference).setHost (move :: s.host))

/-- One clock edge as a step: the hardware's edge, but an edge that accepts an illegal word is a fault (R131). -/
def edgeStep (pins : Pins) (pace : Pace) (s : State) : StepResult :=
  if s.faulted && !pins.rst then .fault .alreadyFaulted
  else
    match s.portProblem pins with
    | some r => .refused r
    | none =>
      if s.cmdReady pins.rst && pins.cmdValid && (decode pins.cmdWord).instr?.isNone then raiseIllegal pins.cmdWord
      else .next (s.clock pins pace)

/-- The host's move `m` in state `s`, from whose list it has been taken. -/
def runMove (m : HostMove) (s : State) : StepResult :=
  match m with
  | .command w => presentWord w m s exec
  | .reset edges => finishReset (s.rstHeld + edges) s
  | .interrupted w taken edges => presentWord w m s (cutShort taken edges)
  | .edge pins pace => edgeStep pins pace s

/-- One step: the host's next move, or, when it has none left, nothing (92_eei_decisions D26; log 2). -/
def nextMove (s : State) : StepResult :=
  match s.host with
  | [] => .next s
  | m :: rest => runMove m (s.setHost rest)

/-- The idle core with `w` as the word the host presents next (log 2). -/
def State.withCommand (s : State) (w : Word48) : State :=
  { s with host := .command w :: s.host, busy := false, outq := [], offered := none, rstHeld := 0, faulted := false }

end Sys2Proof.Machine
end

