-- ==== Sys2Proof/Machine/Assembler.lean ====
section
/-! DEFINITION. The assembler: one command a line (30_encoding R68), the pseudo-instruction `crc.checksum` (R69).
The spec leaves blanks, empty lines and the case of hexadecimal digits open (log 17). -/

namespace Sys2Proof.Machine

/-- A space or a tab. -/
def isBlank (c : Char) : Bool := c == ' ' || c == '\t'

/-- A line without its comment: up to the first `;` (R68). -/
def stripComment (line : List Char) : List Char := line.takeWhile (fun c => c != ';')

/-- Without the blanks at its two ends. -/
def trimBlanks (cs : List Char) : List Char := ((cs.dropWhile isBlank).reverse.dropWhile isBlank).reverse

/-- The value of a digit character below 16. -/
def digitValue (c : Char) : Option Nat :=
  if '0'.toNat ≤ c.toNat ∧ c.toNat ≤ '9'.toNat then some (c.toNat - '0'.toNat)
  else if 'a'.toNat ≤ c.toNat ∧ c.toNat ≤ 'f'.toNat then some (c.toNat - 'a'.toNat + 10)
  else if 'A'.toNat ≤ c.toNat ∧ c.toNat ≤ 'F'.toNat then some (c.toNat - 'A'.toNat + 10)
  else none

/-- The digits of a numeral in the given base, continuing from `n`. -/
def parseDigits (base : Nat) : List Char → Nat → Option Nat
  | [], n => some n
  | c :: rest, n =>
    match digitValue c with
    | some d => if d < base then parseDigits base rest (n * base + d) else none
    | none => none

/-- A decimal or `0x` hexadecimal numeral (R68). -/
def parseNumber (cs : List Char) : Option Nat :=
  match cs with
  | [] => none
  | '0' :: 'x' :: [] => none
  | '0' :: 'x' :: digits => parseDigits 16 digits 0
  | digits => parseDigits 10 digits 0

/-- The parts of a text between its commas. -/
def splitCommas : List Char → List (List Char)
  | [] => [[]]
  | c :: rest =>
    if c == ',' then [] :: splitCommas rest
    else
      match splitCommas rest with
      | [] => [[c]]
      | part :: parts => (c :: part) :: parts

/-- All of them, or none if one is missing. -/
def allSome : List (Option Nat) → Option (List Nat)
  | [] => some []
  | none :: _ => none
  | some n :: rest => (allSome rest).map (n :: ·)

/-- The operands of a line: numerals with commas between, or none at all. -/
def parseOperands (cs : List Char) : Option (List Nat) :=
  match trimBlanks cs with
  | [] => some []
  | text => allSome ((splitCommas text).map (fun part => parseNumber (trimBlanks part)))

/-- The line of a mnemonic and its operands (the table of R68; R69). -/
def lineOf (mnemonic : List Char) (operands : List Nat) : Option AsmLine :=
  if mnemonic = ['c', 'r', 'c', '.', 'i', 'n', 'i', 't'] then
    match operands with
    | [] => some .crcInit
    | _ => none
  else if mnemonic = ['c', 'r', 'c', '.', 'u', 'p', 'd', 'a', 't', 'e'] then
    match operands with
    | [b] => some (.crcUpdate b)
    | _ => none
  else if mnemonic = ['c', 'r', 'c', '.', 'r', 'e', 'a', 'd'] then
    match operands with
    | [] => some .crcRead
    | _ => none
  else if mnemonic = ['f', 'r', 'a', 'm', 'e', '.', 'r', 'e', 'a', 'd', 'm', 'e', 'm'] then
    match operands with
    | [tag, start, count] => some (.frameReadmem tag start count)
    | _ => none
  else if mnemonic = ['c', 'r', 'c', '.', 'c', 'h', 'e', 'c', 'k', 's', 'u', 'm'] then some (.crcChecksum operands)
  else none

/-- Reading a line: `none` where it is no line of R68, `some none` where it holds no command. -/
def parseLine (line : List Char) : Option (Option AsmLine) :=
  let text := trimBlanks (stripComment line)
  match text with
  | [] => some none
  | _ =>
    let mnemonic := text.takeWhile (fun c => !isBlank c)
    match parseOperands (text.drop mnemonic.length) with
    | none => none
    | some operands => (lineOf mnemonic operands).map some

/-- The commands of a line; an operand outside its range is rejected, not truncated (R68). -/
def expandLine (line : AsmLine) : Option (List Instr) :=
  if line.wellFormed then
    match line with
    | .crcInit => some [.crcInit]
    | .crcUpdate byte => some [.crcUpdate (BitVec.ofNat 8 byte)]
    | .crcRead => some [.crcRead]
    | .frameReadmem tag start count =>
      some [.frameReadMem (BitVec.ofNat 8 tag) (BitVec.ofNat 16 start) (BitVec.ofNat 16 count)]
    | .crcChecksum bytes =>
      some (.crcInit :: (bytes.map (fun b => .crcUpdate (BitVec.ofNat 8 b)) ++ [.crcRead]))
  else none

/-- The command words of a text, line by line; `none` if a line is rejected. -/
def assemble : List (List Char) → Option (List Word48)
  | [] => some []
  | line :: rest =>
    match parseLine line with
    | none => none
    | some none => assemble rest
    | some (some l) =>
      match expandLine l, assemble rest with
      | some is, some words => some (is.map encode ++ words)
      | _, _ => none

end Sys2Proof.Machine
end

