-- ==== Sys2Proof/Machine/Run.lean ====
section
/-! DEFINITION. Sequences of commands and whole runs: `computeChecksum` as commands (40_checksum R95, 00_scope R6),
acceptance order (20_memory R53), the end of a run and its fault mark (92_eei_decisions D26, 60_exceptions R131). -/

namespace Sys2Proof.Machine

/-- Commands in acceptance order, each one completely before the next (R53). -/
def execAll : List Instr → State → StepResult
  | [], s => .next s
  | i :: rest, s =>
    match exec i s with
    | .next t => execAll rest t
    | .fault r => .fault r
    | .refused r => .refused r

/-- The commands that realise `computeChecksum(data)` (R95). -/
def checksumCommands (data : List Byte) : List Instr := .crcInit :: (data.map .crcUpdate ++ [.crcRead])

/-- A command as the host issues it. -/
def HostMove.issue (i : Instr) : HostMove := .command (encode i)

/-- What a list of commands leaves in `acc`, as a function of what was there. -/
def accAfter : List Instr → Word16 → Word16
  | [], a => a
  | .crcInit :: rest, _ => accAfter rest initValue
  | .crcUpdate b :: rest, a => accAfter rest (crcByte a b)
  | .crcRead :: rest, a => accAfter rest a
  | .frameReadMem _ _ _ :: rest, a => accAfter rest a

/-- What a list of commands emits, as a function of what is in `acc` at its start. -/
def outputAfter : List Instr → Word16 → List Byte
  | [], _ => []
  | .crcInit :: rest, _ => outputAfter rest initValue
  | .crcUpdate b :: rest, a => outputAfter rest (crcByte a b)
  | .crcRead :: rest, a => bigEndian a ++ outputAfter rest a
  | .frameReadMem tag sb nb :: rest, a => frameBytes tag sb nb ++ outputAfter rest a

/-- The bytes a list of commands folds into the checksum, in order (70_reset R158). -/
def foldedBytes : List Instr → List Byte
  | [] => []
  | .crcInit :: rest => foldedBytes rest
  | .crcUpdate b :: rest => b :: foldedBytes rest
  | .crcRead :: rest => foldedBytes rest
  | .frameReadMem _ _ _ :: rest => foldedBytes rest

/-- A FRAME_READ_MEM command. -/
def isFrame : Instr → Bool
  | .crcInit => false
  | .crcUpdate _ => false
  | .crcRead => false
  | .frameReadMem _ _ _ => true

/-- A CRC_INIT command. -/
def isInit : Instr → Bool
  | .crcInit => true
  | .crcUpdate _ => false
  | .crcRead => false
  | .frameReadMem _ _ _ => false

/-- `n` steps, stopping at the first fault or refusal. -/
def stepN : Nat → State → StepResult
  | 0, s => .next s
  | n + 1, s =>
    match step s with
    | .next t => stepN n t
    | .fault r => .fault r
    | .refused r => .refused r

/-- The state in which at most `n` steps from `s` end: where a step faults, the state it faulted in with the fault mark
set (R131); where a step has no meaning, the state before it. -/
def finalState : Nat → State → State
  | 0, s => s
  | n + 1, s =>
    match step s with
    | .next t => finalState n t
    | .fault _ => s.markFaulted
    | .refused _ => s

/-- What is observed at the end of a run (92_eei_decisions D26). -/
structure Observation where
  acc : Word16
  out : List Byte
  faulted : Bool
  deriving DecidableEq, Repr

/-- The observation of a state. -/
def State.observe (s : State) : Observation := ⟨s.acc, s.out, s.faulted⟩

end Sys2Proof.Machine
end

