-- ==== Sys2Proof/Safety.lean ====
section
/-! DEFINITION. The terms in which statements speak of the core: a core that waits for a command, and the invariant of
its working state. -/

namespace Sys2Proof.Machine

/-- The core waits for a command: idle, its reset pulse over, no word on offer, no fault (20_memory R43).  At this
point the next edge with a presented word accepts it. -/
def State.Waiting (s : State) : Prop :=
  s.idle = true ∧ s.rstHeld = 0 ∧ s.offered = none ∧ s.faulted = false

/-- The bytes of its output that a FRAME_READ_MEM in progress has handed to the output queue so far. -/
def framePushed (tag : Byte) (sb nb : Word16) (s : State) : List Byte :=
  if s.fidx.toNat < 8 then (frameMessage tag sb nb).take (s.fidx.toNat + if s.bitcnt = 0#4 then 0 else 1)
  else frameBytes tag sb nb

/-- The value of the private accumulator in a FRAME_READ_MEM in progress: the checksum of the bytes folded in so far, or
a byte update begun on it (40_checksum R81, 41_frame R116). -/
def frameAccumulated (tag : Byte) (sb nb : Word16) (s : State) : Word16 :=
  if s.fidx.toNat < 8 then
    let before := crc16 ((frameMessage tag sb nb).take s.fidx.toNat)
    if s.bitcnt = 0#4 then before
    else crcSteps s.bitcnt.toNat (before ^^^ byteHigh ((frameMessage tag sb nb).getD s.fidx.toNat 0#8))
  else frameCrc tag sb nb

/-- The bytes handed to the output queue so far are the last ones of the output stream and the queue together, and those
not yet taken are a tail of them (R45). -/
def State.Delivering (s : State) (pushed : List Byte) : Prop :=
  s.outq <:+ pushed ∧ pushed <:+ s.out ++ s.outq

/-- What the working state holds while the command `i` is in progress. -/
def State.InProgress (s : State) : Instr → Prop
  | .crcInit => s.outq = [] ∧ s.bitcnt = 0#4 ∧ s.fidx = 0#4
  | .crcUpdate _ => s.outq = [] ∧ s.bitcnt.toNat < 8 ∧ s.fidx = 0#4
  | .crcRead => s.outq ≠ [] ∧ s.bitcnt = 0#4 ∧ s.fidx = 0#4 ∧ s.Delivering (bigEndian s.acc)
  | .frameReadMem tag sb nb =>
    ((s.fidx.toNat < 8 ∧ s.bitcnt.toNat < 8) ∨ (s.fidx = 10#4 ∧ s.bitcnt = 0#4 ∧ s.outq ≠ [])) ∧
      s.facc = frameAccumulated tag sb nb s ∧ s.Delivering (framePushed tag sb nb s)

/-- The invariant of the working state (10_state R28, 20_memory R43 to R45): nothing is pending in an idle core; a
presented byte is a pending one; a command in progress is a legal one, and its counters, its accumulator and its
output are where the command's rules have brought them.  The counters' values, and with which bit step a byte joins `outq` and
the accumulator, are those of the model's engine (log 18). -/
structure State.Inv (s : State) : Prop where
  shownPending : s.shown = true → s.outq ≠ []
  idleEmpty : s.busy = false → s.outq = [] ∧ s.bitcnt = 0#4 ∧ s.fidx = 0#4
  busyLegal : s.busy = true → ∃ i, s.current = some i ∧ s.InProgress i

/-- The bytes of its output that the command in progress has handed to the output queue so far. -/
def commandPushed (i : Instr) (s : State) : List Byte :=
  match i with
  | .crcInit => []
  | .crcUpdate _ => []
  | .crcRead => bigEndian s.acc
  | .frameReadMem tag sb nb => framePushed tag sb nb s

/-- How many bytes of the output of the command in progress the host has taken. -/
def State.takenOf (s : State) (i : Instr) : Nat := (commandPushed i s).length - s.outq.length

/-- An edge at which everything may go on: the host takes a presented byte, the engine makes a step and a pending byte
is presented (70_reset R171). -/
def enabledEdge (e : Bool × Pace) : Bool := e.1 && e.2.bit && e.2.emit

end Sys2Proof.Machine
end

