-- ==== Sys2Proof/Certificates/Slice0/Obligations.lean ====
section
/-! DEFINITION. The statements for the provers.  Each docstring names the rules of spec/ it formalises. -/

open Sys2Proof Sys2Proof.Machine

/-! ## Encoding -/

/-- 30_encoding R60 to R65: a word decodes to a command exactly when it is that command's word, with every operand at
every value. -/
def Obligations.DecodingInvertsEncoding : Prop :=
  ∀ (i : Instr) (w : Word48), decode w = .command i ↔ w = encode i

/-- R64: the opcode map's rows; a word selects a row by mask and match, at most one row, and decodes to a command of the
selected row, or to itself as illegal when it selects none. -/
def Obligations.DecodingFollowsTheOpcodeMap : Prop :=
  opcodeMap.map (fun r => (r.mnemonic, r.matchBits, r.mask)) =
    [("CRC_INIT", 0x010000000000#48, 0xFFFFFFFFFFFF#48), ("CRC_UPDATE", 0x020000000000#48, 0xFF00FFFFFFFF#48),
     ("CRC_READ", 0x030000000000#48, 0xFFFFFFFFFFFF#48), ("FRAME_READ_MEM", 0x100000000000#48, 0xFF0000000000#48)] ∧
  (∀ (w : Word48), ∀ r ∈ opcodeMap, ∀ r' ∈ opcodeMap, r.selects w = true → r'.selects w = true → r = r') ∧
  (∀ (w : Word48) (i : Instr), decode w = .command i → i.row ∈ opcodeMap ∧ i.row.selects w = true) ∧
  (∀ w : Word48, decode w = .illegal w ↔ ∀ r ∈ opcodeMap, r.selects w = false)

/-- R66: a word is illegal exactly when its opcode is unassigned, or its opcode is 0x01, 0x02 or 0x03 and a bit that its
format requires to be zero is one; 252 opcode values are unassigned; every other word is one of the four commands; and
an illegal word raises IllegalCommand. -/
def Obligations.IllegalWordsAreExactlyThese : Prop :=
  (∀ w : Word48, decode w = .illegal w ↔
    (opcField w ≠ 0x01#8 ∧ opcField w ≠ 0x02#8 ∧ opcField w ≠ 0x03#8 ∧ opcField w ≠ 0x10#8) ∨
    ((opcField w = 0x01#8 ∨ opcField w = 0x03#8) ∧ operandBits w ≠ 0#40) ∨
    (opcField w = 0x02#8 ∧ lowBits w ≠ 0#32)) ∧
  ((List.range 256).filter (fun n => !(n == 1 || n == 2 || n == 3 || n == 16))).length = 252 ∧
  (∀ w : Word48, decode w = .illegal w ∨ ∃ i, decode w = .command i) ∧
  (∀ (s : State) (w : Word48) (rest : List HostMove), s.Waiting → s.host = .command w :: rest →
    decode w = .illegal w → step s = .fault (.illegalCommand w))

/-- R61: the word as a number is its fields' digits side by side, OO BB SSSS NNNN in hexadecimal. -/
def Obligations.CommandWordIsItsFieldsSideBySide : Prop :=
  ∀ w : Word48, w.toNat = (opcField w).toNat * 0x10000000000 + (bField w).toNat * 0x100000000 +
    (sbField w).toNat * 0x10000 + (nbField w).toNat

/-- R70: the encodings worked out there, as words of their commands and read back from them, and the illegal words. -/
def Obligations.EncodingExamplesDecode : Prop :=
  (∀ p ∈ ([(.crcInit, 0x010000000000#48), (.crcUpdate 0x31#8, 0x023100000000#48),
      (.crcUpdate 0x00#8, 0x020000000000#48), (.crcUpdate 0xFF#8, 0x02FF00000000#48), (.crcRead, 0x030000000000#48),
      (.frameReadMem 0x01#8 0x0000#16 0x0001#16, 0x100100000001#48),
      (.frameReadMem 0xFF#8 0xFFFF#16 0xFFFF#16, 0x10FFFFFFFFFF#48),
      (.frameReadMem 0x12#8 0x3456#16 0x789A#16, 0x10123456789A#48)] : List (Instr × Word48)),
    encode p.1 = p.2 ∧ decode p.2 = .command p.1) ∧
  (∀ w ∈ [0x000000000000#48, 0x200100000001#48, 0x010000000001#48, 0x023100000100#48, 0x030100000000#48],
    decode w = .illegal w)

/-- 20_memory R42, R53: when the word the host presents to the waiting core decodes to a command, the step is that
command's meaning on the state in which the word is latched and the host's move is taken from its list. -/
def Obligations.StepRunsTheDecodedCommand : Prop :=
  ∀ (s : State) (w : Word48) (rest : List HostMove) (i : Instr), s.Waiting → s.host = .command w :: rest →
    decode w = .command i → step s = exec i ((s.setHost rest).latch w)

/-! ## The checksum -/

/-- 40_checksum R80: the test is on bit 15 before the shift; bit 15 is lost and 0 enters bit 0; masking before or after
the exclusive or gives the same. -/
def Obligations.BitStepShiftsAndReduces : Prop :=
  ∀ a : Word16,
    (crcStep a).toNat = (if 0x8000 ≤ a.toNat then (2 * a.toNat % 0x10000) ^^^ 0x1021 else 2 * a.toNat) ∧
    (0x8000 ≤ a.toNat → (crcStep a).toNat = (2 * a.toNat ^^^ 0x1021) % 0x10000)

/-- R81: the byte update is eight bit steps on the accumulator with the byte folded into its high half; done once after
all bytes instead, "123456789" would give 0xC782, done per byte it gives 0x29B1. -/
def Obligations.ByteUpdateIsEightBitSteps : Prop :=
  (∀ (a : Word16) (b : Byte), crcByte a b = crcStep^[8] (a ^^^ (b.setWidth 16 <<< 8))) ∧
  (let data := [0x31#8, 0x32#8, 0x33#8, 0x34#8, 0x35#8, 0x36#8, 0x37#8, 0x38#8, 0x39#8]
   data.foldl crcByte 0xFFFF#16 = 0x29B1#16 ∧
   crcStep^[8] (data.foldl (fun (a : Word16) (b : Byte) => a ^^^ (b.setWidth 16 <<< 8)) 0xFFFF#16) = 0xC782#16)

/-- R82: the byte form and the bit-serial form agree for every accumulator and byte. -/
def Obligations.SerialFormAgrees : Prop :=
  ∀ (a : Word16) (b : Byte), crcByte a b = crcByteSerial a b

/-- R84, R85, R89: the checksum starts from 0xFFFF, takes the bytes in order, has no final step; its value on the empty
sequence and on "123456789". -/
def Obligations.ChecksumTakesBytesInOrder : Prop :=
  crc16 [] = 0xFFFF#16 ∧
  (∀ (s : List Byte) (b : Byte), crc16 (s ++ [b]) = crcByte (crc16 s) b) ∧
  crc16 [0x31#8, 0x32#8, 0x33#8, 0x34#8, 0x35#8, 0x36#8, 0x37#8, 0x38#8, 0x39#8] = 0x29B1#16

/-- R88: a sequence followed by its checksum has checksum zero. -/
def Obligations.ResidueIsZero : Prop :=
  ∀ s : List Byte, crc16 (s ++ [hi8 (crc16 s), lo8 (crc16 s)]) = 0x0000#16

/-- 95_test_vectors 2.3: the table form of the byte update. -/
def Obligations.TableFormAgrees : Prop :=
  ∀ (a : Word16) (b : Byte), crcByte a b = (a <<< 8) ^^^ crcByte 0#16 (hi8 a ^^^ b)

/-! ## The commands -/

/-- R90: CRC_INIT sets `acc` to 0xFFFF and changes nothing else; its one word, and no other with its opcode; a second one
changes nothing. -/
def Obligations.CrcInitCommand : Prop :=
  (∀ s : State, exec .crcInit s = .next { s with acc := 0xFFFF#16 }) ∧
  encode .crcInit = 0x010000000000#48 ∧
  (∀ w : Word48, opcField w = 0x01#8 → operandBits w ≠ 0#40 → decode w = .illegal w) ∧
  (∀ s t : State, exec .crcInit s = .next t → exec .crcInit t = .next t) ∧
  (∀ s : State, s.acc = 0x29B1#16 → ∃ t, exec .crcInit s = .next t ∧ t.acc = 0xFFFF#16 ∧ t.out = s.out)

/-- R91: CRC_UPDATE replaces `acc` by its byte update and changes nothing else; its words; the corner cases; for each
byte the update is a bijection, and two bytes reach every checksum. -/
def Obligations.CrcUpdateCommand : Prop :=
  (∀ (b : Byte) (s : State), exec (.crcUpdate b) s = .next { s with acc := crcByte s.acc b }) ∧
  (∀ w : Word48, opcField w = 0x02#8 →
    (lowBits w = 0#32 → decode w = .command (.crcUpdate (bField w))) ∧ (lowBits w ≠ 0#32 → decode w = .illegal w)) ∧
  crcByte 0xFFFF#16 0x00#8 = 0xE1F0#16 ∧ crcByte 0x0000#16 0x00#8 = 0x0000#16 ∧
  crcByte 0xFFFF#16 0xFF#8 = 0xFF00#16 ∧ crcByte 0xFFFF#16 0x31#8 = 0xC782#16 ∧
  (∀ b : Byte, Function.Bijective (fun a => crcByte a b)) ∧
  (∀ v : Word16, ∃ b0 b1, crc16 [b0, b1] = v) ∧
  (∀ b : Byte, ∃ t, exec (.crcUpdate b) State.reset = .next t ∧ t.acc = crcByte 0xFFFF#16 b)

/-- R92: CRC_READ emits the two bytes of `acc`, high byte first, and changes nothing else; its one word; it reads without
destroying; right after reset it emits 0xFF, 0xFF. -/
def Obligations.CrcReadCommand : Prop :=
  (∀ s : State, exec .crcRead s = .next { s with out := s.out ++ [hi8 s.acc, lo8 s.acc] }) ∧
  encode .crcRead = 0x030000000000#48 ∧
  (∀ w : Word48, opcField w = 0x03#8 → operandBits w ≠ 0#40 → decode w = .illegal w) ∧
  (∀ (s t : State) (b : Byte), exec .crcRead s = .next t →
    ∃ u v, exec (.crcUpdate b) s = .next u ∧ exec (.crcUpdate b) t = .next v ∧ u.acc = v.acc) ∧
  (∀ s : State, ∃ t u, exec .crcRead s = .next t ∧ exec .crcRead t = .next u ∧
    u.out = s.out ++ [hi8 s.acc, lo8 s.acc] ++ [hi8 s.acc, lo8 s.acc]) ∧
  (∃ t, exec .crcRead State.reset = .next t ∧ t.out = [0xFF#8, 0xFF#8]) ∧
  (∀ s : State, s.acc = 0x29B1#16 → ∃ t, exec .crcRead s = .next t ∧ t.out = s.out ++ [0x29#8, 0xB1#8] ∧
    t.acc = 0x29B1#16)

/-- 41_frame R115: FRAME_READ_MEM emits the message and its checksum, and changes nothing but the output and the private
accumulator, so neither `acc` nor any other field; every word with its opcode is one; the corner cases and the
example. -/
def Obligations.FrameReadMemCommand : Prop :=
  (∀ (tag : Byte) (sb nb : Word16) (s : State),
    let m := [0x09#8, 0x00#8, 0x20#8, tag, hi8 sb, lo8 sb, hi8 nb, lo8 nb]
    ∃ f : Word16, exec (.frameReadMem tag sb nb) s =
      .next { s with out := s.out ++ (m ++ [hi8 (crc16 m), lo8 (crc16 m)]), facc := f }) ∧
  (∀ w : Word48, opcField w = 0x10#8 → decode w = .command (.frameReadMem (bField w) (sbField w) (nbField w))) ∧
  frameBytes 0x00#8 0x0000#16 0x0000#16 =
    [0x09#8, 0x00#8, 0x20#8, 0x00#8, 0x00#8, 0x00#8, 0x00#8, 0x00#8, 0x5D#8, 0x3F#8] ∧
  frameBytes 0xFF#8 0xFFFF#16 0xFFFF#16 =
    [0x09#8, 0x00#8, 0x20#8, 0xFF#8, 0xFF#8, 0xFF#8, 0xFF#8, 0xFF#8, 0x9E#8, 0x5F#8] ∧
  decode 0x100100000001#48 = .command (.frameReadMem 0x01#8 0x0000#16 0x0001#16) ∧
  (∀ s : State, ∃ t, exec (.frameReadMem 0x01#8 0x0000#16 0x0001#16) s = .next t ∧
    t.out = s.out ++ [0x09#8, 0x00#8, 0x20#8, 0x01#8, 0x00#8, 0x00#8, 0x00#8, 0x01#8, 0xE7#8, 0x4F#8] ∧ t.acc = s.acc)

/-- R110, R111, R113: the frame byte by byte, ten bytes, its checksum over bytes 0 to 7. -/
def Obligations.FrameLayout : Prop :=
  ∀ (tag : Byte) (sb nb : Word16),
    let f := frameBytes tag sb nb
    let c := crc16 (f.take 8)
    f.length = 10 ∧ f[0]? = some 0x09#8 ∧ f[1]? = some 0x00#8 ∧ f[2]? = some 0x20#8 ∧ f[3]? = some tag ∧
    f[4]? = some (hi8 sb) ∧ f[5]? = some (lo8 sb) ∧ f[6]? = some (hi8 nb) ∧ f[7]? = some (lo8 nb) ∧
    f[8]? = some (hi8 c) ∧ f[9]? = some (lo8 c)

/-- R118: length; equal operands give equal frames whatever was issued before; changing one operand changes the bytes of
its field and the checksum, which always changes, and no others; the whole frame has checksum zero; MSG_LEN counts the
bytes after it. -/
def Obligations.FrameProperties : Prop :=
  ∀ (tag : Byte) (sb nb : Word16),
    (frameBytes tag sb nb).length = 10 ∧
    (∀ s s' : State, ∃ t t' f, exec (.frameReadMem tag sb nb) s = .next t ∧ exec (.frameReadMem tag sb nb) s' = .next t' ∧
      t.out = s.out ++ f ∧ t'.out = s'.out ++ f) ∧
    (∀ tag' : Byte, tag' ≠ tag →
      (∀ k : Nat, k ≠ 3 → k ≠ 8 → k ≠ 9 → (frameBytes tag' sb nb)[k]? = (frameBytes tag sb nb)[k]?) ∧
      (frameBytes tag' sb nb).drop 8 ≠ (frameBytes tag sb nb).drop 8) ∧
    (∀ sb' : Word16, sb' ≠ sb →
      (∀ k : Nat, k ≠ 4 → k ≠ 5 → k ≠ 8 → k ≠ 9 → (frameBytes tag sb' nb)[k]? = (frameBytes tag sb nb)[k]?) ∧
      (frameBytes tag sb' nb).drop 8 ≠ (frameBytes tag sb nb).drop 8) ∧
    (∀ nb' : Word16, nb' ≠ nb →
      (∀ k : Nat, k ≠ 6 → k ≠ 7 → k ≠ 8 → k ≠ 9 → (frameBytes tag sb nb')[k]? = (frameBytes tag sb nb)[k]?) ∧
      (frameBytes tag sb nb').drop 8 ≠ (frameBytes tag sb nb).drop 8) ∧
    crc16 (frameBytes tag sb nb) = 0x0000#16 ∧
    (∃ rest, frameBytes tag sb nb = 0x09#8 :: rest ∧ rest.length = (0x09#8).toNat)

/-- R130: every command, at every operand value and in every state, answers a next state, and so does the step in which
the waiting core accepts its word. -/
def Obligations.LegalCommandsRaiseNothing : Prop :=
  (∀ (i : Instr) (s : State), ∃ t, exec i s = .next t) ∧
  (∀ (s : State) (i : Instr) (rest : List HostMove), s.Waiting → s.host = .command (encode i) :: rest →
    ∃ t, step s = .next t)

/-- 20_memory R52: two CRC_READs emit the same bytes, two FRAME_READ_MEMs with the same operands the same frame; neither
changes `acc`; CRC_INIT is idempotent; CRC_UPDATE is not. -/
def Obligations.RepeatedCommands : Prop :=
  (∀ s : State, ∃ t u x, exec .crcRead s = .next t ∧ exec .crcRead t = .next u ∧
    t.out = s.out ++ x ∧ u.out = t.out ++ x ∧ t.acc = s.acc ∧ u.acc = s.acc) ∧
  (∀ (tag : Byte) (sb nb : Word16) (s : State), ∃ t u x, exec (.frameReadMem tag sb nb) s = .next t ∧
    exec (.frameReadMem tag sb nb) t = .next u ∧ t.out = s.out ++ x ∧ u.out = t.out ++ x ∧
    t.acc = s.acc ∧ u.acc = s.acc) ∧
  (∀ s t : State, exec .crcInit s = .next t → exec .crcInit t = .next t) ∧
  (∀ b : Byte, ∃ s t u : State, exec (.crcUpdate b) s = .next t ∧ exec (.crcUpdate b) t = .next u ∧ u.acc ≠ t.acc)

/-! ## Sequences of commands -/

/-- 40_checksum R95: CRC_INIT, one CRC_UPDATE per byte of `data`, CRC_READ, with FRAME_READ_MEM commands in between or
not, issued to the waiting core: the steps end with the two bytes of `crc16 data` at the end of the output, and
without frames those two bytes are all the output. -/
def Obligations.ChecksumSequenceComputesTheChecksum : Prop :=
  ∀ (s : State) (data : List Byte) (before : List Instr) (rest : List HostMove), s.Waiting →
    before.filter (fun i => !isFrame i) = Instr.crcInit :: data.map Instr.crcUpdate →
    s.host = (before ++ [Instr.crcRead]).map HostMove.issue ++ rest →
    ∃ t frames, stepN (before.length + 1) s = .next t ∧ t.host = rest ∧ t.acc = crc16 data ∧
      t.out = s.out ++ frames ++ [hi8 (crc16 data), lo8 (crc16 data)] ∧
      (before = Instr.crcInit :: data.map Instr.crcUpdate → frames = [])

/-- 41_frame R116: the frame's checksum is computed on the private accumulator from 0xFFFF (that it stays there afterwards
is the model's choice, log 18), `acc` is neither read nor written; taking the FRAME_READ_MEM commands out of any list of commands changes neither the `acc` it ends with
nor what a CRC_READ after it emits. -/
def Obligations.FramesLeaveTheChecksumAlone : Prop :=
  (∀ (tag : Byte) (sb nb : Word16) (s s' : State), ∃ t t' x, exec (.frameReadMem tag sb nb) s = .next t ∧
    exec (.frameReadMem tag sb nb) s' = .next t' ∧ t.acc = s.acc ∧
    t.facc = (frameMessage tag sb nb).foldl crcByte 0xFFFF#16 ∧ t.out = s.out ++ x ∧ t'.out = s'.out ++ x) ∧
  (∀ (is : List Instr) (s : State), ∃ t u t' u' x, execAll is s = .next t ∧
    execAll (is.filter (fun i => !isFrame i)) s = .next u ∧ t.acc = u.acc ∧
    exec .crcRead t = .next t' ∧ exec .crcRead u = .next u' ∧ t'.out = t.out ++ x ∧ u'.out = u.out ++ x)

/-- 70_reset R158: whoever issued them, CRC_READ returns the checksum over all the bytes folded in since the last
CRC_INIT. -/
def Obligations.SharedAccumulatorMixesCallers : Prop :=
  ∀ (earlier later : List Instr) (s : State), later.any isInit = false →
    ∃ t u, execAll (earlier ++ .crcInit :: later) s = .next t ∧ t.acc = crc16 (foldedBytes later) ∧
      exec .crcRead t = .next u ∧
      u.out = t.out ++ [hi8 (crc16 (foldedBytes later)), lo8 (crc16 (foldedBytes later))]

/-- 20_memory R45, R53: a list of commands runs as its first part and then its second; what it emits is what the first
part emits and then what the second part emits; CRC_INIT and CRC_UPDATE emit nothing, CRC_READ 2 bytes, FRAME_READ_MEM
10. -/
def Obligations.CommandsRunInOrder : Prop :=
  (∀ (is js : List Instr) (s : State), ∃ t u, execAll is s = .next t ∧ execAll js t = .next u ∧
    execAll (is ++ js) s = .next u ∧ t.acc = accAfter is s.acc ∧ t.out = s.out ++ outputAfter is s.acc ∧
    u.out = s.out ++ outputAfter is s.acc ++ outputAfter js (accAfter is s.acc)) ∧
  (∀ a : Word16, outputAfter [.crcInit] a = [] ∧ (∀ b, outputAfter [.crcUpdate b] a = []) ∧
    (outputAfter [.crcRead] a).length = 2 ∧
    ∀ tag sb nb, (outputAfter [.frameReadMem tag sb nb] a).length = 10)

/-- 70_reset R150, R156: a computation started right after reset gets the checksum without CRC_INIT; any other without
CRC_INIT folds its bytes into whatever `acc` holds. -/
def Obligations.ChecksumWithoutInit : Prop :=
  ∀ data : List Byte,
    (∃ t, execAll (data.map Instr.crcUpdate ++ [Instr.crcRead]) State.reset = .next t ∧ t.acc = crc16 data ∧
      t.out = [hi8 (crc16 data), lo8 (crc16 data)]) ∧
    (∀ s : State, ∃ t, execAll (data.map Instr.crcUpdate) s = .next t ∧ t.acc = data.foldl crcByte s.acc ∧ t.out = s.out)

/-! ## Faults and the whole machine -/

/-- 60_exceptions R131, R132 (where the mark is set is the model's choice, log 3; that `cmd_ready` stays high after an
illegal word too, log 4): in the model the step on an illegal word is the fault with that word, and the run's end
state keeps `acc` and the output and has the mark set; the hardware's edge accepts the word with no change and is ready
again; the one cause is number 1. -/
def Obligations.IllegalWordFaults : Prop :=
  (∀ (s : State) (w : Word48) (rest : List HostMove) (n : Nat), s.Waiting → s.host = .command w :: rest →
    decode w = .illegal w → step s = .fault (.illegalCommand w) ∧
      (finalState (n + 1) s).observe = ⟨s.acc, s.out, true⟩) ∧
  (∀ (s : State) (w : Word48) (outReady : Bool) (pace : Pace), s.Waiting → decode w = .illegal w →
    s.clock ⟨false, true, w, outReady⟩ pace = s ∧ s.cmdReady false = true ∧
      edgeStep ⟨false, true, w, outReady⟩ pace s = .fault (.illegalCommand w)) ∧
  (∀ f : Fault, f.cause = 1)

/-- 10_state R31, 60_exceptions R131 ("never cleared, reset included"), 70_reset R154: no step and no run clears the
fault mark.  Two clauses are the model's choice, log 3, DESIGN CHOICE, and not R131's, which has the step set the mark
and IllegalCommand as the only fault: that no step sets the mark (the end state of a run does), and that a command in a
faulted state is the fault `alreadyFaulted`. -/
def Obligations.FaultMarkIsKept : Prop :=
  (∀ s t : State, step s = .next t → t.faulted = s.faulted) ∧
  (∀ (n : Nat) (s : State), s.faulted = true → (finalState n s).faulted = true) ∧
  (∀ (s : State) (w : Word48) (rest : List HostMove), s.faulted = true → s.host = .command w :: rest →
    step s = .fault .alreadyFaulted)

/-- 20_memory R45, 70_reset R154: no step removes a byte from the output stream or changes one. -/
def Obligations.OutputStreamOnlyGrows : Prop :=
  ∀ s t : State, step s = .next t → s.out <+: t.out

/-- 10_state R20, R21: `acc` changes only by CRC_INIT, CRC_UPDATE (accepted now, or in progress at an edge) or reset. -/
def Obligations.OnlyInitUpdateAndResetChangeAcc : Prop :=
  ∀ s t : State, step s = .next t → t.acc ≠ s.acc →
    (∃ w rest, s.host = .command w :: rest ∧ s.idle = true ∧
      (decode w = .command .crcInit ∨ ∃ b, decode w = .command (.crcUpdate b))) ∨
    (∃ edges rest, s.host = .reset edges :: rest) ∨
    (∃ w taken edges rest, s.host = .interrupted w taken edges :: rest ∧ s.idle = true) ∨
    (∃ pins pace rest, s.host = .edge pins pace :: rest ∧ pins.rst = true) ∨
    (s.busy = true ∧ (s.current = some .crcInit ∨ ∃ b, s.current = some (.crcUpdate b)))

/-- 92_eei_decisions D26, the model's choice of log 2: with no move of the host left, the core stands still. -/
def Obligations.NoMoveNoChange : Prop :=
  ∀ s : State, s.host = [] → step s = .next s

/-! ## Reset -/

/-- 10_state R31: the reset state; `facc` and `opnd` have no value there and none is stated; the output stream and the
fault mark are not reset. -/
def Obligations.ResetLeavesTheResetState : Prop :=
  State.reset.acc = 0xFFFF#16 ∧ State.reset.busy = false ∧ State.reset.bitcnt = 0#4 ∧ State.reset.fidx = 0#4 ∧
  State.reset.outq = [] ∧
  (∀ s : State, s.applyReset.acc = 0xFFFF#16 ∧ s.applyReset.busy = false ∧ s.applyReset.bitcnt = 0#4 ∧
    s.applyReset.fidx = 0#4 ∧ s.applyReset.outq = [] ∧ s.applyReset.out = s.out ∧ s.applyReset.faulted = s.faulted) ∧
  polyValue = 0x1021#16 ∧ initValue = 0xFFFF#16 ∧ msgLen = 0x09#8 ∧ flagsByte = 0x00#8 ∧ commandReadMem = 0x20#8

/-- 70_reset R150: at every edge with `rst` high the core enters the reset state; while it is high `cmd_ready` and
`out_valid` are low, no command is accepted and no output byte is taken. -/
def Obligations.ResetEdge : Prop :=
  ∀ (s : State) (pins : Pins) (pace : Pace), pins.rst = true →
    (s.clock pins pace).acc = 0xFFFF#16 ∧ (s.clock pins pace).busy = false ∧ (s.clock pins pace).outq = [] ∧
    (s.clock pins pace).idle = true ∧ (s.clock pins pace).out = s.out ∧
    (s.pinsOut true).cmdReady = false ∧ (s.pinsOut true).outValid = false

/-- 70_reset R151, R154, 93_implementation_defined I5: a reset of at least `T_RESET` edges leads to the reset state,
whatever was in progress and even after a fault; a shorter one has no meaning. -/
def Obligations.ResetMoveNeedsEnoughEdges : Prop :=
  ∀ (s : State) (edges : Nat) (rest : List HostMove), s.host = .reset edges :: rest →
    (Config.tReset ≤ s.rstHeld + edges → ∃ t, step s = .next t ∧ t.acc = 0xFFFF#16 ∧ t.busy = false ∧ t.outq = [] ∧
      t.out = s.out ∧ t.faulted = s.faulted ∧ t.host = rest) ∧
    (s.rstHeld + edges < Config.tReset → step s = .refused .shortReset)

/-- 70_reset R152, as a host step with the draw `k` (any `k`, log 8): the command is abandoned, the first `k` bytes of its output stay
taken, the rest are never emitted, `acc` is 0xFFFF. -/
def Obligations.ResetCutsACommandShort : Prop :=
  ∀ (s : State) (i : Instr) (k edges : Nat) (rest : List HostMove), s.Waiting →
    s.host = .interrupted (encode i) k edges :: rest → Config.tReset ≤ edges →
    ∃ t, step s = .next t ∧ t.acc = 0xFFFF#16 ∧ t.busy = false ∧ t.outq = [] ∧ t.host = rest ∧
      t.out = s.out ++ (commandOutput i s).take k ∧
      (k < (commandOutput i s).length → t.out.length = s.out.length + k)

/-- R152 at the edges: a reset at any edge at which a command is still in progress, whatever the pace and whatever the
host took, leaves the output stream with a prefix of the command's output shorter than all of it, and `acc` at 0xFFFF. -/
def Obligations.ResetAtAnEdgeLeavesAPrefix : Prop :=
  ∀ (s : State) (i : Instr) (outReady : Bool) (pace : Pace) (edges : List (Bool × Pace)) (pins : Pins) (last : Pace),
    s.Inv → s.Waiting → pins.rst = true →
    let t := (s.clock ⟨false, true, encode i, outReady⟩ pace).clockQuiet edges
    t.idle = false →
    (t.clock pins last).acc = 0xFFFF#16 ∧ (t.clock pins last).idle = true ∧
    ∃ k, (t.clock pins last).out = s.out ++ (commandOutput i s).take k ∧
      (k < (commandOutput i s).length ∨ commandOutput i s = [])

/-! ## The clock edges -/

/-- 20_memory R43: `cmd_ready` is high exactly when `rst` is low, no command is in progress and every output byte has been
taken; while that is not so, an edge accepts nothing: the command in progress stays the one it was. -/
def Obligations.ReadyExactlyWhenIdle : Prop :=
  (∀ (s : State) (rst : Bool), (s.pinsOut rst).cmdReady = true ↔ rst = false ∧ s.busy = false ∧ s.outq = []) ∧
  (∀ (s : State) (pins : Pins) (pace : Pace), pins.rst = false → (s.pinsOut false).cmdReady = false →
    (s.clock pins pace).latched = s.latched ∧ (s.clock pins pace).current = s.current ∧
      (s.busy = false → (s.clock pins pace).busy = false))

/-- R42 (the refusal: log 11): a command is accepted at an edge with `rst` low and `cmd_valid` and `cmd_ready` high, and the word is latched
there; one not accepted stays on offer, and the step has no meaning if the host then changes or withdraws it. -/
def Obligations.AcceptanceLatchesTheWord : Prop :=
  (∀ (s : State) (pins : Pins) (pace : Pace) (i : Instr), pins.rst = false → pins.cmdValid = true →
    (s.pinsOut false).cmdReady = true → decode pins.cmdWord = .command i →
    (s.clock pins pace).busy = true ∧ (s.clock pins pace).latched = pins.cmdWord ∧
      (s.clock pins pace).current = some i ∧ (s.clock pins pace).offered = none) ∧
  (∀ (s : State) (pins : Pins) (pace : Pace), pins.rst = false → pins.cmdValid = true →
    (s.pinsOut false).cmdReady = false → (s.clock pins pace).offered = some pins.cmdWord) ∧
  (∀ (s : State) (pins : Pins) (pace : Pace) (w : Word48) (rest : List HostMove), s.host = .edge pins pace :: rest →
    pins.rst = false → s.faulted = false → s.rstHeld = 0 → s.offered = some w →
    (pins.cmdValid = false ∨ pins.cmdWord ≠ w) → step s = .refused .unstableCommandWord)

/-- R44: a byte is taken exactly at an edge with `rst` low, `out_valid` and `out_ready` high; until then the core holds
`out_byte` and `out_last`, for any length of time; the presented byte is the next byte of the command's output, and
`out_last` is high exactly on its last byte; `out_valid` is low when no byte is pending. -/
def Obligations.PresentedByteIsHeld : Prop :=
  (∀ (s : State) (pins : Pins) (pace : Pace), pins.rst = false →
    (s.clock pins pace).out = s.out ++
      (if (s.pinsOut false).outValid = true ∧ pins.outReady = true then s.outq.take 1 else [])) ∧
  (∀ (s : State) (pins : Pins) (pace : Pace), s.Inv → pins.rst = false → pins.outReady = false →
    (s.pinsOut false).outValid = true → (s.clock pins pace).pinsOut false = s.pinsOut false) ∧
  (∀ (s : State) (paces : List Pace), s.Inv → (s.pinsOut false).outValid = true →
    (s.clockQuiet (paces.map (fun p => (false, p)))).pinsOut false = s.pinsOut false) ∧
  (∀ (s : State) (i : Instr), s.Inv → s.current = some i → (s.pinsOut false).outValid = true →
    (s.pinsOut false).outByte = (commandOutput i s)[s.takenOf i]? ∧ (s.pinsOut false).outByte ≠ none ∧
    (s.pinsOut false).outLast = some (decide (s.takenOf i + 1 = (commandOutput i s).length))) ∧
  (∀ s : State, s.outq = [] → (s.pinsOut false).outValid = false)

/-- 20_memory R51, R53, 40_checksum R83, 41_frame R116, R117, 70_reset R170: edge by edge, at any pace and whatever the
host's `out_ready`, a command that has completed has done exactly what its meaning says: `acc` and the output, which
the rules give, and the working state, whose values after a command are the model's choice (log 18). -/
def Obligations.EdgesRefineCommands : Prop :=
  ∀ (s : State) (w : Word48) (i : Instr) (outReady : Bool) (pace : Pace) (edges : List (Bool × Pace)),
    s.Inv → s.Waiting → decode w = .command i →
    let t := (s.clock ⟨false, true, w, outReady⟩ pace).clockQuiet edges
    t.idle = true → exec i (s.latch w) = .next t

/-- 70_reset R170, the table for the reference microarchitecture (log 10): after acceptance a command is in progress for exactly 1,
8, 2 or 66 edges. -/
def Obligations.ReferenceCycleCounts : Prop :=
  ∀ (s : State) (w : Word48) (i : Instr) (n : Nat), s.Inv → s.Waiting → decode w = .command i →
    (((s.clock (Pins.presenting w) Pace.reference).clockReference n).idle = true ↔ referenceCycles i ≤ n)

/-- 70_reset R171: with `rst` low, a command in progress completes once the host and the core's pace (log 10) have let it go on
at 84 edges, a bound of the model's engine, however many others come between. -/
def Obligations.AcceptedCommandsComplete : Prop :=
  ∀ (s : State) (edges : List (Bool × Pace)), s.Inv →
    84 ≤ (edges.filter enabledEdge).length → (s.clockQuiet edges).idle = true

/-- The invariant holds right after reset (10_state R31). -/
def Obligations.InvariantHoldsAtReset : Prop :=
  State.reset.Inv

/-- 10_state R28, 20_memory R43 to R45, 41_frame R116: every step, from every state that meets the invariant, leads to
one that meets it.  What the invariant says of the working state rests on the model's choice, log 18, DESIGN CHOICE: that
`bitcnt` and `fidx` are zero in an idle core, the counters' ranges and `fidx`'s jump from 7 to 10, and with which bit
step a frame byte joins `outq` and `facc`. -/
def Obligations.EveryStepKeepsTheInvariant : Prop :=
  ∀ s t : State, s.Inv → step s = .next t → t.Inv

/-- 20_memory R42, R43: a word presented while the core is not idle, for a whole command or for one that reset will cut
short, is not accepted: the command in progress stays the one it was, and the word is on offer.  How the wait is stepped
is the model's choice, log 13, DESIGN CHOICE: the step is one clock edge at the reference pace with `out_ready` high,
and the host's move stays first in its list. -/
def Obligations.BusyCoreHoldsTheHost : Prop :=
  ∀ (s : State) (w : Word48) (move : HostMove) (rest : List HostMove),
    (move = .command w ∨ ∃ taken edges, move = .interrupted w taken edges) → s.host = move :: rest →
    s.idle = false → s.faulted = false → s.rstHeld = 0 → (s.offered = none ∨ s.offered = some w) →
    let t := ((s.setHost rest).clock (Pins.presenting w) Pace.reference).setHost s.host
    step s = .next t ∧ t.latched = s.latched ∧ t.current = s.current ∧ t.offered = some w

/-! ## The assembler -/

/-- 30_encoding R68, R63: an operand in its range is taken as it is written; one outside its range is rejected, not
truncated. -/
def Obligations.AssemblerKeepsRanges : Prop :=
  expandLine .crcInit = some [.crcInit] ∧ expandLine .crcRead = some [.crcRead] ∧
  (∀ n : Nat, (n < 256 → ∃ b : Byte, b.toNat = n ∧ expandLine (.crcUpdate n) = some [.crcUpdate b]) ∧
    (256 ≤ n → expandLine (.crcUpdate n) = none)) ∧
  (∀ tag start count : Nat,
    (tag < 256 → start < 65536 → count < 65536 → ∃ (b : Byte) (sb nb : Word16), b.toNat = tag ∧ sb.toNat = start ∧
      nb.toNat = count ∧ expandLine (.frameReadmem tag start count) = some [.frameReadMem b sb nb]) ∧
    (256 ≤ tag ∨ 65536 ≤ start ∨ 65536 ≤ count → expandLine (.frameReadmem tag start count) = none))

/-- R69: `crc.checksum` expands to CRC_INIT, a CRC_UPDATE per byte in order, CRC_READ, and emits the two bytes of the
checksum; with no byte it expands to CRC_INIT and CRC_READ; a byte out of range is rejected. -/
def Obligations.ChecksumPseudoInstruction : Prop :=
  (∀ (data : List Byte) (s : State), ∃ is t, expandLine (.crcChecksum (data.map BitVec.toNat)) = some is ∧
    is = Instr.crcInit :: (data.map Instr.crcUpdate ++ [Instr.crcRead]) ∧ execAll is s = .next t ∧
    t.out = s.out ++ [hi8 (crc16 data), lo8 (crc16 data)]) ∧
  expandLine (.crcChecksum []) = some [.crcInit, .crcRead] ∧
  (∀ ns : List Nat, (∃ n ∈ ns, 256 ≤ n) → expandLine (.crcChecksum ns) = none)

/-- R68, R70 (spellings of log 17): two lines of text and their words, with a comment and both kinds of numeral, and a line that is rejected. -/
def Obligations.AssemblyTextExamples : Prop :=
  assemble
    [['c', 'r', 'c', '.', 'u', 'p', 'd', 'a', 't', 'e', ' ', '0', 'x', '3', '1', ' ', ';', 'o', 'n', 'e'],
     ['f', 'r', 'a', 'm', 'e', '.', 'r', 'e', 'a', 'd', 'm', 'e', 'm', ' ', '1', '8', ',', ' ', '0', 'x', '3', '4', '5',
      '6', ',', ' ', '0', 'x', '7', '8', '9', 'A']] =
    some [0x023100000000#48, 0x10123456789A#48] ∧
  assemble [['c', 'r', 'c', '.', 'u', 'p', 'd', 'a', 't', 'e', ' ', '2', '5', '6']] = none
end

