-- ==== Sys2Proof/Laws/Checksum.lean ====
section
/-! SUPPORT. The Checksum Engine's functions: what one bit step does, bit by bit and over exclusive or. -/

namespace Sys2Proof.Machine

/-- The two arms of the bit step as one expression. -/
theorem crcStep_eq (a : Word16) :
    crcStep a = shl1 a ^^^ (if a.getLsbD 15 then polyValue else 0#16) := by
  unfold crcStep
  split <;> simp

/-- The bit step distributes over exclusive or. -/
theorem crcStep_xor (a b : Word16) : crcStep (a ^^^ b) = crcStep a ^^^ crcStep b := by
  simp only [crcStep_eq, shl1, BitVec.getLsbD_xor, BitVec.shiftLeft_xor_distrib]
  cases a.getLsbD 15 <;> cases b.getLsbD 15 <;> simp
  · ac_rfl
  · ac_rfl
  · rw [show a <<< 1 ^^^ polyValue ^^^ (b <<< 1 ^^^ polyValue) =
      a <<< 1 ^^^ (polyValue ^^^ (polyValue ^^^ b <<< 1)) by ac_rfl]
    simp

/-- So do any number of bit steps. -/
theorem crcSteps_xor (n : Nat) (a b : Word16) :
    crcSteps n (a ^^^ b) = crcSteps n a ^^^ crcSteps n b := by
  induction n generalizing a b with
  | zero => rfl
  | succ n ih => simp only [crcSteps, crcStep_xor, ih]

@[simp] theorem crcSteps_zero_left (a : Word16) : crcSteps 0 a = a := rfl

/-- Bit steps from zero stay at zero. -/
@[simp] theorem crcSteps_zero (n : Nat) : crcSteps n 0#16 = 0#16 := by
  induction n with
  | zero => rfl
  | succ n ih => exact ih

theorem crcSteps_add (m n : Nat) (a : Word16) : crcSteps (m + n) a = crcSteps n (crcSteps m a) := by
  induction m generalizing a with
  | zero => simp
  | succ m ih => rw [Nat.succ_add]; exact ih _

/-- The last of `n + 1` bit steps. -/
theorem crcSteps_succ (n : Nat) (a : Word16) : crcSteps (n + 1) a = crcStep (crcSteps n a) := crcSteps_add n 1 a

@[simp] theorem crc16_nil : crc16 [] = initValue := rfl

/-- The checksum one byte further (40_checksum R84). -/
theorem crc16_concat (s : List Byte) (b : Byte) : crc16 (s ++ [b]) = crcByte (crc16 s) b := by
  simp [crc16]

/-- The bits of a byte placed in the high half. -/
theorem byteHigh_getLsbD (b : Byte) (i : Nat) :
    (byteHigh b).getLsbD i = (decide (8 ≤ i) && b.getLsbD (i - 8)) := by
  simp only [byteHigh, zext16, BitVec.getLsbD_shiftLeft, BitVec.getLsbD_setWidth]
  by_cases h : i < 16
  · by_cases h8 : i < 8
    · have : ¬ 8 ≤ i := by omega
      simp [h8, this]
    · have : i - 8 < 16 := by omega
      have h8' : 8 ≤ i := by omega
      simp [h, h8, h8', this]
  · have : b.getLsbD (i - 8) = false := BitVec.getLsbD_of_ge _ _ (by omega)
    simp [this]

/-- A word16 is its two bytes, put together. -/
theorem byteHigh_hi8_xor_lo8 (v : Word16) : byteHigh (hi8 v) ^^^ zext16 (lo8 v) = v := by
  apply BitVec.eq_of_getLsbD_eq
  intro i hi
  simp only [BitVec.getLsbD_xor, byteHigh_getLsbD, hi8, lo8, zext16, BitVec.getLsbD_setWidth,
    BitVec.getLsbD_extractLsb']
  by_cases h8 : i < 8
  · have : ¬ 8 ≤ i := by omega
    simp [h8, hi, this]
  · have h : 8 + (i - 8) = i := by omega
    have h1 : i - 8 < 8 := by omega
    have h2 : 8 ≤ i := by omega
    simp [h8, hi, h, h1, h2]

end Sys2Proof.Machine
end

