-- ==== Sys2Proof/Laws/Decode.lean ====
section
/-! SUPPORT. The fields of a packed command word, and a latched word as the word that was latched. -/

namespace Sys2Proof

@[simp] theorem opcField_packWord (opc b : Byte) (sb nb : Word16) : opcField (packWord opc b sb nb) = opc := by
  apply BitVec.eq_of_getLsbD_eq
  intro i hi
  simp only [opcField, packWord, BitVec.getLsbD_extractLsb', BitVec.getLsbD_append]
  have h1 : ¬ 40 + i < 16 := by omega
  have h2 : ¬ 40 + i - 16 < 16 := by omega
  have h3 : ¬ 40 + i - 16 - 16 < 8 := by omega
  have h4 : 40 + i - 16 - 16 - 8 = i := by omega
  simp [hi, h1, h2, h3, h4]

@[simp] theorem bField_packWord (opc b : Byte) (sb nb : Word16) : bField (packWord opc b sb nb) = b := by
  apply BitVec.eq_of_getLsbD_eq
  intro i hi
  simp only [bField, packWord, BitVec.getLsbD_extractLsb', BitVec.getLsbD_append]
  have h1 : ¬ 32 + i < 16 := by omega
  have h2 : ¬ 32 + i - 16 < 16 := by omega
  have h3 : 32 + i - 16 - 16 = i := by omega
  simp [hi, h1, h2, h3]

@[simp] theorem sbField_packWord (opc b : Byte) (sb nb : Word16) : sbField (packWord opc b sb nb) = sb := by
  apply BitVec.eq_of_getLsbD_eq
  intro i hi
  simp only [sbField, packWord, BitVec.getLsbD_extractLsb', BitVec.getLsbD_append]
  have h1 : ¬ 16 + i < 16 := by omega
  have h2 : 16 + i - 16 = i := by omega
  simp [hi, h1, h2]

@[simp] theorem nbField_packWord (opc b : Byte) (sb nb : Word16) : nbField (packWord opc b sb nb) = nb := by
  apply BitVec.eq_of_getLsbD_eq
  intro i hi
  simp only [nbField, packWord, BitVec.getLsbD_extractLsb', BitVec.getLsbD_append]
  simp [hi]

/-- A word is its opcode byte and its operand bits. -/
theorem opcField_append_operandBits (w : Word48) : (opcField w ++ operandBits w : Word48) = w := by
  apply BitVec.eq_of_getLsbD_eq
  intro i hi
  simp only [opcField, operandBits, BitVec.getLsbD_append, BitVec.getLsbD_extractLsb']
  by_cases h : i < 40
  · simp [h]
  · have h1 : 40 + (i - 40) = i := by omega
    have h2 : i - 40 < 8 := by omega
    simp [h, h1, h2]

/-- Masking a packed word masks each field. -/
theorem packWord_and (o b o' b' : Byte) (sb nb sb' nb' : Word16) :
    packWord o b sb nb &&& packWord o' b' sb' nb' = packWord (o &&& o') (b &&& b') (sb &&& sb') (nb &&& nb') := by
  apply BitVec.eq_of_getLsbD_eq
  intro i hi
  simp only [packWord, BitVec.getLsbD_and, BitVec.getLsbD_append]
  split_ifs <;> rfl

/-- Every word is one of the four commands, decoded field by field, or illegal: all that decoding can answer. -/
theorem decode_cases (w : Word48) :
    (decode w = .command .crcInit ∧ opcField w = 0x01#8 ∧ operandBits w = 0#40) ∨
    (decode w = .command (.crcUpdate (bField w)) ∧ opcField w = 0x02#8 ∧ lowBits w = 0#32) ∨
    (decode w = .command .crcRead ∧ opcField w = 0x03#8 ∧ operandBits w = 0#40) ∨
    (decode w = .command (.frameReadMem (bField w) (sbField w) (nbField w)) ∧ opcField w = 0x10#8) ∨
    (decode w = .illegal w) := by
  unfold decode
  split_ifs with h1 h2 h3 h4
  · exact .inl ⟨rfl, h1⟩
  · exact .inr (.inl ⟨rfl, h2⟩)
  · exact .inr (.inr (.inl ⟨rfl, h3⟩))
  · exact .inr (.inr (.inr (.inl ⟨rfl, h4⟩)))
  · exact .inr (.inr (.inr (.inr rfl)))

end Sys2Proof
end

