-- ==== Sys2Proof/Laws/State.lean ====
section
/-! SUPPORT. One lemma per field per named operation on the state (Machine/Ops.lean), so that no later proof unfolds a
record update. -/

namespace Sys2Proof.Machine

section
variable (s : State)

@[simp] theorem State.setAcc_acc (v : Word16) : (s.setAcc v).acc = v := rfl
@[simp] theorem State.setAcc_out (v : Word16) : (s.setAcc v).out = s.out := rfl
@[simp] theorem State.setAcc_faulted (v : Word16) : (s.setAcc v).faulted = s.faulted := rfl
@[simp] theorem State.setAcc_busy (v : Word16) : (s.setAcc v).busy = s.busy := rfl
@[simp] theorem State.setAcc_bitcnt (v : Word16) : (s.setAcc v).bitcnt = s.bitcnt := rfl
@[simp] theorem State.setAcc_facc (v : Word16) : (s.setAcc v).facc = s.facc := rfl
@[simp] theorem State.setAcc_fidx (v : Word16) : (s.setAcc v).fidx = s.fidx := rfl
@[simp] theorem State.setAcc_opnd (v : Word16) : (s.setAcc v).opnd = s.opnd := rfl
@[simp] theorem State.setAcc_outq (v : Word16) : (s.setAcc v).outq = s.outq := rfl
@[simp] theorem State.setAcc_opc (v : Word16) : (s.setAcc v).opc = s.opc := rfl
@[simp] theorem State.setAcc_shown (v : Word16) : (s.setAcc v).shown = s.shown := rfl
@[simp] theorem State.setAcc_offered (v : Word16) : (s.setAcc v).offered = s.offered := rfl
@[simp] theorem State.setAcc_rstHeld (v : Word16) : (s.setAcc v).rstHeld = s.rstHeld := rfl
@[simp] theorem State.setAcc_host (v : Word16) : (s.setAcc v).host = s.host := rfl

@[simp] theorem State.setFacc_acc (v : Word16) : (s.setFacc v).acc = s.acc := rfl
@[simp] theorem State.setFacc_out (v : Word16) : (s.setFacc v).out = s.out := rfl
@[simp] theorem State.setFacc_faulted (v : Word16) : (s.setFacc v).faulted = s.faulted := rfl
@[simp] theorem State.setFacc_busy (v : Word16) : (s.setFacc v).busy = s.busy := rfl
@[simp] theorem State.setFacc_bitcnt (v : Word16) : (s.setFacc v).bitcnt = s.bitcnt := rfl
@[simp] theorem State.setFacc_facc (v : Word16) : (s.setFacc v).facc = v := rfl
@[simp] theorem State.setFacc_fidx (v : Word16) : (s.setFacc v).fidx = s.fidx := rfl
@[simp] theorem State.setFacc_opnd (v : Word16) : (s.setFacc v).opnd = s.opnd := rfl
@[simp] theorem State.setFacc_outq (v : Word16) : (s.setFacc v).outq = s.outq := rfl
@[simp] theorem State.setFacc_opc (v : Word16) : (s.setFacc v).opc = s.opc := rfl
@[simp] theorem State.setFacc_shown (v : Word16) : (s.setFacc v).shown = s.shown := rfl
@[simp] theorem State.setFacc_offered (v : Word16) : (s.setFacc v).offered = s.offered := rfl
@[simp] theorem State.setFacc_rstHeld (v : Word16) : (s.setFacc v).rstHeld = s.rstHeld := rfl
@[simp] theorem State.setFacc_host (v : Word16) : (s.setFacc v).host = s.host := rfl

@[simp] theorem State.emit_acc (bytes : List Byte) : (s.emit bytes).acc = s.acc := rfl
@[simp] theorem State.emit_out (bytes : List Byte) : (s.emit bytes).out = s.out ++ bytes := rfl
@[simp] theorem State.emit_faulted (bytes : List Byte) : (s.emit bytes).faulted = s.faulted := rfl
@[simp] theorem State.emit_busy (bytes : List Byte) : (s.emit bytes).busy = s.busy := rfl
@[simp] theorem State.emit_bitcnt (bytes : List Byte) : (s.emit bytes).bitcnt = s.bitcnt := rfl
@[simp] theorem State.emit_facc (bytes : List Byte) : (s.emit bytes).facc = s.facc := rfl
@[simp] theorem State.emit_fidx (bytes : List Byte) : (s.emit bytes).fidx = s.fidx := rfl
@[simp] theorem State.emit_opnd (bytes : List Byte) : (s.emit bytes).opnd = s.opnd := rfl
@[simp] theorem State.emit_outq (bytes : List Byte) : (s.emit bytes).outq = s.outq := rfl
@[simp] theorem State.emit_opc (bytes : List Byte) : (s.emit bytes).opc = s.opc := rfl
@[simp] theorem State.emit_shown (bytes : List Byte) : (s.emit bytes).shown = s.shown := rfl
@[simp] theorem State.emit_offered (bytes : List Byte) : (s.emit bytes).offered = s.offered := rfl
@[simp] theorem State.emit_rstHeld (bytes : List Byte) : (s.emit bytes).rstHeld = s.rstHeld := rfl
@[simp] theorem State.emit_host (bytes : List Byte) : (s.emit bytes).host = s.host := rfl

@[simp] theorem State.latch_acc (w : Word48) : (s.latch w).acc = s.acc := rfl
@[simp] theorem State.latch_out (w : Word48) : (s.latch w).out = s.out := rfl
@[simp] theorem State.latch_faulted (w : Word48) : (s.latch w).faulted = s.faulted := rfl
@[simp] theorem State.latch_busy (w : Word48) : (s.latch w).busy = s.busy := rfl
@[simp] theorem State.latch_bitcnt (w : Word48) : (s.latch w).bitcnt = s.bitcnt := rfl
@[simp] theorem State.latch_facc (w : Word48) : (s.latch w).facc = s.facc := rfl
@[simp] theorem State.latch_fidx (w : Word48) : (s.latch w).fidx = s.fidx := rfl
@[simp] theorem State.latch_opnd (w : Word48) : (s.latch w).opnd = operandBits w := rfl
@[simp] theorem State.latch_outq (w : Word48) : (s.latch w).outq = s.outq := rfl
@[simp] theorem State.latch_opc (w : Word48) : (s.latch w).opc = opcField w := rfl
@[simp] theorem State.latch_shown (w : Word48) : (s.latch w).shown = s.shown := rfl
@[simp] theorem State.latch_offered (w : Word48) : (s.latch w).offered = none := rfl
@[simp] theorem State.latch_rstHeld (w : Word48) : (s.latch w).rstHeld = 0 := rfl
@[simp] theorem State.latch_host (w : Word48) : (s.latch w).host = s.host := rfl

@[simp] theorem State.applyReset_acc : s.applyReset.acc = 0xFFFF#16 := rfl
@[simp] theorem State.applyReset_out : s.applyReset.out = s.out := rfl
@[simp] theorem State.applyReset_faulted : s.applyReset.faulted = s.faulted := rfl
@[simp] theorem State.applyReset_busy : s.applyReset.busy = false := rfl
@[simp] theorem State.applyReset_bitcnt : s.applyReset.bitcnt = 0#4 := rfl
@[simp] theorem State.applyReset_facc : s.applyReset.facc = 0#16 := rfl
@[simp] theorem State.applyReset_fidx : s.applyReset.fidx = 0#4 := rfl
@[simp] theorem State.applyReset_opnd : s.applyReset.opnd = 0#40 := rfl
@[simp] theorem State.applyReset_outq : s.applyReset.outq = [] := rfl
@[simp] theorem State.applyReset_opc : s.applyReset.opc = 0#8 := rfl
@[simp] theorem State.applyReset_shown : s.applyReset.shown = false := rfl
@[simp] theorem State.applyReset_offered : s.applyReset.offered = none := rfl
@[simp] theorem State.applyReset_rstHeld : s.applyReset.rstHeld = 0 := rfl
@[simp] theorem State.applyReset_host : s.applyReset.host = s.host := rfl

@[simp] theorem State.setHost_acc (moves : List HostMove) : (s.setHost moves).acc = s.acc := rfl
@[simp] theorem State.setHost_out (moves : List HostMove) : (s.setHost moves).out = s.out := rfl
@[simp] theorem State.setHost_faulted (moves : List HostMove) : (s.setHost moves).faulted = s.faulted := rfl
@[simp] theorem State.setHost_busy (moves : List HostMove) : (s.setHost moves).busy = s.busy := rfl
@[simp] theorem State.setHost_bitcnt (moves : List HostMove) : (s.setHost moves).bitcnt = s.bitcnt := rfl
@[simp] theorem State.setHost_facc (moves : List HostMove) : (s.setHost moves).facc = s.facc := rfl
@[simp] theorem State.setHost_fidx (moves : List HostMove) : (s.setHost moves).fidx = s.fidx := rfl
@[simp] theorem State.setHost_opnd (moves : List HostMove) : (s.setHost moves).opnd = s.opnd := rfl
@[simp] theorem State.setHost_outq (moves : List HostMove) : (s.setHost moves).outq = s.outq := rfl
@[simp] theorem State.setHost_opc (moves : List HostMove) : (s.setHost moves).opc = s.opc := rfl
@[simp] theorem State.setHost_shown (moves : List HostMove) : (s.setHost moves).shown = s.shown := rfl
@[simp] theorem State.setHost_offered (moves : List HostMove) : (s.setHost moves).offered = s.offered := rfl
@[simp] theorem State.setHost_rstHeld (moves : List HostMove) : (s.setHost moves).rstHeld = s.rstHeld := rfl
@[simp] theorem State.setHost_host (moves : List HostMove) : (s.setHost moves).host = moves := rfl

@[simp] theorem State.markFaulted_acc : s.markFaulted.acc = s.acc := rfl
@[simp] theorem State.markFaulted_out : s.markFaulted.out = s.out := rfl
@[simp] theorem State.markFaulted_faulted : s.markFaulted.faulted = true := rfl
@[simp] theorem State.markFaulted_busy : s.markFaulted.busy = s.busy := rfl
@[simp] theorem State.markFaulted_bitcnt : s.markFaulted.bitcnt = s.bitcnt := rfl
@[simp] theorem State.markFaulted_facc : s.markFaulted.facc = s.facc := rfl
@[simp] theorem State.markFaulted_fidx : s.markFaulted.fidx = s.fidx := rfl
@[simp] theorem State.markFaulted_opnd : s.markFaulted.opnd = s.opnd := rfl
@[simp] theorem State.markFaulted_outq : s.markFaulted.outq = s.outq := rfl
@[simp] theorem State.markFaulted_opc : s.markFaulted.opc = s.opc := rfl
@[simp] theorem State.markFaulted_shown : s.markFaulted.shown = s.shown := rfl
@[simp] theorem State.markFaulted_offered : s.markFaulted.offered = s.offered := rfl
@[simp] theorem State.markFaulted_rstHeld : s.markFaulted.rstHeld = s.rstHeld := rfl
@[simp] theorem State.markFaulted_host : s.markFaulted.host = s.host := rfl

end

/-- The reset value of `acc` is the value a checksum starts from (70_reset R150). -/
theorem reset_acc : State.reset.acc = initValue := rfl

end Sys2Proof.Machine
end

