-- ==== Sys2Proof/Laws/Clock.lean ====
section
/-! SUPPORT. The clock's operations: what each can do, said once, and the fields it leaves alone. -/

namespace Sys2Proof.Machine

/-- Taking a byte moves the first pending byte to the end of the output stream, or changes nothing. -/
theorem State.takeByte_cases (s : State) (outReady : Bool) :
    (s.takeByte outReady = s ∧ (s.outq = [] ∨ outReady = false ∨ s.shown = false)) ∨
    ∃ b rest, s.outq = b :: rest ∧ outReady = true ∧ s.shown = true ∧
      s.takeByte outReady = { s with out := s.out ++ [b], outq := rest, shown := false } := by
  cases h : s.outq with
  | nil => left; simp [State.takeByte, h]
  | cons b rest =>
    cases outReady <;> cases hs : s.shown <;> simp [State.takeByte, h, hs]

/-- Presenting sets `shown`, or changes nothing. -/
theorem State.present_cases (s : State) (emit : Bool) :
    (s.present emit = s ∧ (emit = false ∨ s.outq = [])) ∨
    (s.present emit = { s with shown := true } ∧ emit = true ∧ s.outq ≠ []) := by
  cases emit <;> cases h : s.outq <;> simp [State.present, h]

/-- Retiring returns the counters to zero and the core to idle, or changes nothing. -/
theorem State.retire_cases (s : State) (stepped : Bool) :
    (s.retire stepped = s ∧ (s.worked stepped = false ∨ s.outq ≠ [])) ∨
    (s.retire stepped = { s with busy := false, bitcnt := 0#4, fidx := 0#4 } ∧
      s.worked stepped = true ∧ s.outq = []) := by
  cases hw : s.worked stepped <;> cases h : s.outq <;> simp [State.retire, h, hw]

/-- The engine's step on the command in progress, by command. -/
theorem State.work_eq (s : State) {i : Instr} (h : s.current = some i) :
    s.work = match i with
      | .crcInit => s.setAcc initValue
      | .crcUpdate b => s.workUpdate b
      | .crcRead => s
      | .frameReadMem tag sb nb => s.workFrame tag sb nb := by
  simp only [State.work, h]
  cases i <;> rfl

/-- A word just latched is the latched word. -/
@[simp] theorem State.latched_latch (s : State) (w : Word48) : (s.latch w).latched = w :=
  opcField_append_operandBits w

/-! What each operation leaves alone, one lemma per field. -/

section
variable (s : State)

@[simp] theorem State.takeByte_acc (outReady : Bool) : (s.takeByte outReady).acc = s.acc := by
  rcases s.takeByte_cases outReady with ⟨h, -⟩ | ⟨_, _, -, -, -, h⟩ <;> rw [h]
@[simp] theorem State.takeByte_faulted (outReady : Bool) : (s.takeByte outReady).faulted = s.faulted := by
  rcases s.takeByte_cases outReady with ⟨h, -⟩ | ⟨_, _, -, -, -, h⟩ <;> rw [h]
@[simp] theorem State.takeByte_busy (outReady : Bool) : (s.takeByte outReady).busy = s.busy := by
  rcases s.takeByte_cases outReady with ⟨h, -⟩ | ⟨_, _, -, -, -, h⟩ <;> rw [h]
@[simp] theorem State.takeByte_bitcnt (outReady : Bool) : (s.takeByte outReady).bitcnt = s.bitcnt := by
  rcases s.takeByte_cases outReady with ⟨h, -⟩ | ⟨_, _, -, -, -, h⟩ <;> rw [h]
@[simp] theorem State.takeByte_facc (outReady : Bool) : (s.takeByte outReady).facc = s.facc := by
  rcases s.takeByte_cases outReady with ⟨h, -⟩ | ⟨_, _, -, -, -, h⟩ <;> rw [h]
@[simp] theorem State.takeByte_fidx (outReady : Bool) : (s.takeByte outReady).fidx = s.fidx := by
  rcases s.takeByte_cases outReady with ⟨h, -⟩ | ⟨_, _, -, -, -, h⟩ <;> rw [h]
@[simp] theorem State.takeByte_opnd (outReady : Bool) : (s.takeByte outReady).opnd = s.opnd := by
  rcases s.takeByte_cases outReady with ⟨h, -⟩ | ⟨_, _, -, -, -, h⟩ <;> rw [h]
@[simp] theorem State.takeByte_opc (outReady : Bool) : (s.takeByte outReady).opc = s.opc := by
  rcases s.takeByte_cases outReady with ⟨h, -⟩ | ⟨_, _, -, -, -, h⟩ <;> rw [h]
@[simp] theorem State.takeByte_offered (outReady : Bool) : (s.takeByte outReady).offered = s.offered := by
  rcases s.takeByte_cases outReady with ⟨h, -⟩ | ⟨_, _, -, -, -, h⟩ <;> rw [h]
@[simp] theorem State.takeByte_rstHeld (outReady : Bool) : (s.takeByte outReady).rstHeld = s.rstHeld := by
  rcases s.takeByte_cases outReady with ⟨h, -⟩ | ⟨_, _, -, -, -, h⟩ <;> rw [h]
@[simp] theorem State.takeByte_host (outReady : Bool) : (s.takeByte outReady).host = s.host := by
  rcases s.takeByte_cases outReady with ⟨h, -⟩ | ⟨_, _, -, -, -, h⟩ <;> rw [h]
@[simp] theorem State.takeByte_current (outReady : Bool) : (s.takeByte outReady).current = s.current := by
  simp [State.current, State.latched]

@[simp] theorem State.present_acc (emit : Bool) : (s.present emit).acc = s.acc := by
  rcases s.present_cases emit with ⟨h, -⟩ | ⟨h, -⟩ <;> rw [h]
@[simp] theorem State.present_out (emit : Bool) : (s.present emit).out = s.out := by
  rcases s.present_cases emit with ⟨h, -⟩ | ⟨h, -⟩ <;> rw [h]
@[simp] theorem State.present_faulted (emit : Bool) : (s.present emit).faulted = s.faulted := by
  rcases s.present_cases emit with ⟨h, -⟩ | ⟨h, -⟩ <;> rw [h]
@[simp] theorem State.present_busy (emit : Bool) : (s.present emit).busy = s.busy := by
  rcases s.present_cases emit with ⟨h, -⟩ | ⟨h, -⟩ <;> rw [h]
@[simp] theorem State.present_bitcnt (emit : Bool) : (s.present emit).bitcnt = s.bitcnt := by
  rcases s.present_cases emit with ⟨h, -⟩ | ⟨h, -⟩ <;> rw [h]
@[simp] theorem State.present_facc (emit : Bool) : (s.present emit).facc = s.facc := by
  rcases s.present_cases emit with ⟨h, -⟩ | ⟨h, -⟩ <;> rw [h]
@[simp] theorem State.present_fidx (emit : Bool) : (s.present emit).fidx = s.fidx := by
  rcases s.present_cases emit with ⟨h, -⟩ | ⟨h, -⟩ <;> rw [h]
@[simp] theorem State.present_opnd (emit : Bool) : (s.present emit).opnd = s.opnd := by
  rcases s.present_cases emit with ⟨h, -⟩ | ⟨h, -⟩ <;> rw [h]
@[simp] theorem State.present_outq (emit : Bool) : (s.present emit).outq = s.outq := by
  rcases s.present_cases emit with ⟨h, -⟩ | ⟨h, -⟩ <;> rw [h]
@[simp] theorem State.present_opc (emit : Bool) : (s.present emit).opc = s.opc := by
  rcases s.present_cases emit with ⟨h, -⟩ | ⟨h, -⟩ <;> rw [h]
@[simp] theorem State.present_offered (emit : Bool) : (s.present emit).offered = s.offered := by
  rcases s.present_cases emit with ⟨h, -⟩ | ⟨h, -⟩ <;> rw [h]
@[simp] theorem State.present_rstHeld (emit : Bool) : (s.present emit).rstHeld = s.rstHeld := by
  rcases s.present_cases emit with ⟨h, -⟩ | ⟨h, -⟩ <;> rw [h]
@[simp] theorem State.present_host (emit : Bool) : (s.present emit).host = s.host := by
  rcases s.present_cases emit with ⟨h, -⟩ | ⟨h, -⟩ <;> rw [h]
@[simp] theorem State.present_current (emit : Bool) : (s.present emit).current = s.current := by
  simp [State.current, State.latched]

@[simp] theorem State.retire_acc (stepped : Bool) : (s.retire stepped).acc = s.acc := by
  rcases s.retire_cases stepped with ⟨h, -⟩ | ⟨h, -⟩ <;> rw [h]
@[simp] theorem State.retire_out (stepped : Bool) : (s.retire stepped).out = s.out := by
  rcases s.retire_cases stepped with ⟨h, -⟩ | ⟨h, -⟩ <;> rw [h]
@[simp] theorem State.retire_faulted (stepped : Bool) : (s.retire stepped).faulted = s.faulted := by
  rcases s.retire_cases stepped with ⟨h, -⟩ | ⟨h, -⟩ <;> rw [h]
@[simp] theorem State.retire_facc (stepped : Bool) : (s.retire stepped).facc = s.facc := by
  rcases s.retire_cases stepped with ⟨h, -⟩ | ⟨h, -⟩ <;> rw [h]
@[simp] theorem State.retire_opnd (stepped : Bool) : (s.retire stepped).opnd = s.opnd := by
  rcases s.retire_cases stepped with ⟨h, -⟩ | ⟨h, -⟩ <;> rw [h]
@[simp] theorem State.retire_outq (stepped : Bool) : (s.retire stepped).outq = s.outq := by
  rcases s.retire_cases stepped with ⟨h, -⟩ | ⟨h, -⟩ <;> rw [h]
@[simp] theorem State.retire_opc (stepped : Bool) : (s.retire stepped).opc = s.opc := by
  rcases s.retire_cases stepped with ⟨h, -⟩ | ⟨h, -⟩ <;> rw [h]
@[simp] theorem State.retire_shown (stepped : Bool) : (s.retire stepped).shown = s.shown := by
  rcases s.retire_cases stepped with ⟨h, -⟩ | ⟨h, -⟩ <;> rw [h]
@[simp] theorem State.retire_offered (stepped : Bool) : (s.retire stepped).offered = s.offered := by
  rcases s.retire_cases stepped with ⟨h, -⟩ | ⟨h, -⟩ <;> rw [h]
@[simp] theorem State.retire_rstHeld (stepped : Bool) : (s.retire stepped).rstHeld = s.rstHeld := by
  rcases s.retire_cases stepped with ⟨h, -⟩ | ⟨h, -⟩ <;> rw [h]
@[simp] theorem State.retire_host (stepped : Bool) : (s.retire stepped).host = s.host := by
  rcases s.retire_cases stepped with ⟨h, -⟩ | ⟨h, -⟩ <;> rw [h]
@[simp] theorem State.retire_current (stepped : Bool) : (s.retire stepped).current = s.current := by
  simp [State.current, State.latched]

@[simp] theorem State.workUpdate_out (b : Byte) : (s.workUpdate b).out = s.out := by
  unfold State.workUpdate
  split <;> rfl
@[simp] theorem State.workUpdate_faulted (b : Byte) : (s.workUpdate b).faulted = s.faulted := by
  unfold State.workUpdate
  split <;> rfl
@[simp] theorem State.workUpdate_busy (b : Byte) : (s.workUpdate b).busy = s.busy := by
  unfold State.workUpdate
  split <;> rfl
@[simp] theorem State.workUpdate_facc (b : Byte) : (s.workUpdate b).facc = s.facc := by
  unfold State.workUpdate
  split <;> rfl
@[simp] theorem State.workUpdate_fidx (b : Byte) : (s.workUpdate b).fidx = s.fidx := by
  unfold State.workUpdate
  split <;> rfl
@[simp] theorem State.workUpdate_opnd (b : Byte) : (s.workUpdate b).opnd = s.opnd := by
  unfold State.workUpdate
  split <;> rfl
@[simp] theorem State.workUpdate_outq (b : Byte) : (s.workUpdate b).outq = s.outq := by
  unfold State.workUpdate
  split <;> rfl
@[simp] theorem State.workUpdate_opc (b : Byte) : (s.workUpdate b).opc = s.opc := by
  unfold State.workUpdate
  split <;> rfl
@[simp] theorem State.workUpdate_shown (b : Byte) : (s.workUpdate b).shown = s.shown := by
  unfold State.workUpdate
  split <;> rfl
@[simp] theorem State.workUpdate_offered (b : Byte) : (s.workUpdate b).offered = s.offered := by
  unfold State.workUpdate
  split <;> rfl
@[simp] theorem State.workUpdate_rstHeld (b : Byte) : (s.workUpdate b).rstHeld = s.rstHeld := by
  unfold State.workUpdate
  split <;> rfl
@[simp] theorem State.workUpdate_host (b : Byte) : (s.workUpdate b).host = s.host := by
  unfold State.workUpdate
  split <;> rfl
@[simp] theorem State.workUpdate_current (b : Byte) : (s.workUpdate b).current = s.current := by
  simp [State.current, State.latched]

@[simp] theorem State.workFrame_acc (tag : Byte) (sb nb : Word16) : (s.workFrame tag sb nb).acc = s.acc := by
  unfold State.workFrame
  split <;> [(dsimp only; split <;> [rfl; (split <;> rfl)]); rfl]
@[simp] theorem State.workFrame_out (tag : Byte) (sb nb : Word16) : (s.workFrame tag sb nb).out = s.out := by
  unfold State.workFrame
  split <;> [(dsimp only; split <;> [rfl; (split <;> rfl)]); rfl]
@[simp] theorem State.workFrame_faulted (tag : Byte) (sb nb : Word16) : (s.workFrame tag sb nb).faulted = s.faulted := by
  unfold State.workFrame
  split <;> [(dsimp only; split <;> [rfl; (split <;> rfl)]); rfl]
@[simp] theorem State.workFrame_busy (tag : Byte) (sb nb : Word16) : (s.workFrame tag sb nb).busy = s.busy := by
  unfold State.workFrame
  split <;> [(dsimp only; split <;> [rfl; (split <;> rfl)]); rfl]
@[simp] theorem State.workFrame_opnd (tag : Byte) (sb nb : Word16) : (s.workFrame tag sb nb).opnd = s.opnd := by
  unfold State.workFrame
  split <;> [(dsimp only; split <;> [rfl; (split <;> rfl)]); rfl]
@[simp] theorem State.workFrame_opc (tag : Byte) (sb nb : Word16) : (s.workFrame tag sb nb).opc = s.opc := by
  unfold State.workFrame
  split <;> [(dsimp only; split <;> [rfl; (split <;> rfl)]); rfl]
@[simp] theorem State.workFrame_shown (tag : Byte) (sb nb : Word16) : (s.workFrame tag sb nb).shown = s.shown := by
  unfold State.workFrame
  split <;> [(dsimp only; split <;> [rfl; (split <;> rfl)]); rfl]
@[simp] theorem State.workFrame_offered (tag : Byte) (sb nb : Word16) : (s.workFrame tag sb nb).offered = s.offered := by
  unfold State.workFrame
  split <;> [(dsimp only; split <;> [rfl; (split <;> rfl)]); rfl]
@[simp] theorem State.workFrame_rstHeld (tag : Byte) (sb nb : Word16) : (s.workFrame tag sb nb).rstHeld = s.rstHeld := by
  unfold State.workFrame
  split <;> [(dsimp only; split <;> [rfl; (split <;> rfl)]); rfl]
@[simp] theorem State.workFrame_host (tag : Byte) (sb nb : Word16) : (s.workFrame tag sb nb).host = s.host := by
  unfold State.workFrame
  split <;> [(dsimp only; split <;> [rfl; (split <;> rfl)]); rfl]
@[simp] theorem State.workFrame_current (tag : Byte) (sb nb : Word16) : (s.workFrame tag sb nb).current = s.current := by
  simp [State.current, State.latched]

@[simp] theorem State.work_out : s.work.out = s.out := by
  unfold State.work
  split <;> simp
@[simp] theorem State.work_faulted : s.work.faulted = s.faulted := by
  unfold State.work
  split <;> simp
@[simp] theorem State.work_busy : s.work.busy = s.busy := by
  unfold State.work
  split <;> simp
@[simp] theorem State.work_opnd : s.work.opnd = s.opnd := by
  unfold State.work
  split <;> simp
@[simp] theorem State.work_opc : s.work.opc = s.opc := by
  unfold State.work
  split <;> simp
@[simp] theorem State.work_shown : s.work.shown = s.shown := by
  unfold State.work
  split <;> simp
@[simp] theorem State.work_offered : s.work.offered = s.offered := by
  unfold State.work
  split <;> simp
@[simp] theorem State.work_rstHeld : s.work.rstHeld = s.rstHeld := by
  unfold State.work
  split <;> simp
@[simp] theorem State.work_host : s.work.host = s.host := by
  unfold State.work
  split <;> simp
@[simp] theorem State.work_current : s.work.current = s.current := by
  simp [State.current, State.latched]

@[simp] theorem State.advance_faulted (outReady : Bool) (pace : Pace) : (s.advance outReady pace).faulted = s.faulted := by
  unfold State.advance
  dsimp only
  split <;> simp
@[simp] theorem State.advance_opnd (outReady : Bool) (pace : Pace) : (s.advance outReady pace).opnd = s.opnd := by
  unfold State.advance
  dsimp only
  split <;> simp
@[simp] theorem State.advance_opc (outReady : Bool) (pace : Pace) : (s.advance outReady pace).opc = s.opc := by
  unfold State.advance
  dsimp only
  split <;> simp
@[simp] theorem State.advance_offered (outReady : Bool) (pace : Pace) : (s.advance outReady pace).offered = s.offered := by
  unfold State.advance
  dsimp only
  split <;> simp
@[simp] theorem State.advance_rstHeld (outReady : Bool) (pace : Pace) : (s.advance outReady pace).rstHeld = s.rstHeld := by
  unfold State.advance
  dsimp only
  split <;> simp
@[simp] theorem State.advance_host (outReady : Bool) (pace : Pace) : (s.advance outReady pace).host = s.host := by
  unfold State.advance
  dsimp only
  split <;> simp
@[simp] theorem State.advance_current (outReady : Bool) (pace : Pace) : (s.advance outReady pace).current = s.current := by
  simp [State.current, State.latched]

/-- The latched word decides the command in progress. -/
theorem State.current_latch {w : Word48} {i : Instr} (h : decode w = .command i) : (s.latch w).current = some i := by
  simp [State.current, h, Decoded.instr?]

end

end Sys2Proof.Machine
end

