-- ==== Sys2Proof/Laws/Exec.lean ====
section
/-! SUPPORT. What a command can do, said once. -/

namespace Sys2Proof.Machine

/-- What a command emits depends on `acc` only, so latching its word and taking the host's move do not change it. -/
@[simp] theorem commandOutput_latch (i : Instr) (s : State) (w : Word48) :
    commandOutput i (s.latch w) = commandOutput i s := by
  cases i <;> rfl

@[simp] theorem commandOutput_setHost (i : Instr) (s : State) (moves : List HostMove) :
    commandOutput i (s.setHost moves) = commandOutput i s := by
  cases i <;> rfl

/-- A command that answers a next state has set `acc` or not, emitted its output, and, if it builds a frame, left the
frame's checksum in the private accumulator; everything else is as before. -/
theorem exec_next {i : Instr} {s t : State} (h : exec i s = .next t) :
    t.out = s.out ++ commandOutput i s ∧
    (t.acc = s.acc ∨ i = .crcInit ∨ ∃ b, i = .crcUpdate b) ∧
    (t.facc = s.facc ∨ ∃ tag sb nb, i = .frameReadMem tag sb nb) ∧
    t.faulted = s.faulted ∧ t.busy = s.busy ∧ t.bitcnt = s.bitcnt ∧ t.fidx = s.fidx ∧ t.opnd = s.opnd ∧
    t.outq = s.outq ∧ t.opc = s.opc ∧ t.shown = s.shown ∧ t.offered = s.offered ∧ t.rstHeld = s.rstHeld ∧
    t.host = s.host := by
  cases i <;> simp only [exec, execCrcInit, execCrcUpdate, execCrcRead, execFrameReadMem,
    Host.Outcome.next.injEq] at h <;> subst h <;> simp [commandOutput]

end Sys2Proof.Machine
end

