-- ==== Sys2Proof/Laws/Frame.lean ====
section
/-! SUPPORT. The frame as a list of bytes: its length and its two parts. -/

namespace Sys2Proof.Machine

section
variable (tag : Byte) (sb nb : Word16)

@[simp] theorem bigEndian_length (v : Word16) : (bigEndian v).length = 2 := rfl

@[simp] theorem frameMessage_length : (frameMessage tag sb nb).length = 8 := rfl

/-- The frame has ten bytes (41_frame R111). -/
@[simp] theorem frameBytes_length : (frameBytes tag sb nb).length = 10 := by simp [frameBytes]

/-- Its first eight bytes are the message. -/
@[simp] theorem frameBytes_take_eight : (frameBytes tag sb nb).take 8 = frameMessage tag sb nb :=
  List.take_left' (frameMessage_length tag sb nb)

/-- Its last two bytes are the checksum. -/
@[simp] theorem frameBytes_drop_eight : (frameBytes tag sb nb).drop 8 = bigEndian (frameCrc tag sb nb) :=
  List.drop_left' (frameMessage_length tag sb nb)

end

/-- Two bytes determine the word16 they are the big-endian form of (20_memory R46). -/
theorem bigEndian_injective {v w : Word16} (h : bigEndian v = bigEndian w) : v = w := by
  simp only [bigEndian, List.cons.injEq, and_true] at h
  rw [← byteHigh_hi8_xor_lo8 v, h.1, h.2, byteHigh_hi8_xor_lo8]

end Sys2Proof.Machine
end

