-- ==== Sys2Proof/Laws/PerInstr.lean ====
section
/-! SUPPORT. The statements made per command. -/

namespace Sys2Proof.Laws.OpcodeRow

/-- A command is well formed, its word is selected by its own row of the opcode map, and that row is in the map
(30_encoding R63, R64). -/
def Statement (i : Instr) : Prop :=
  i.wellFormed = true ∧ i.row ∈ opcodeMap ∧ i.row.selects (encode i) = true

theorem crcInit : Statement .crcInit := by
  refine ⟨rfl, ?_, ?_⟩ <;> decide

theorem crcUpdate (b : Byte) : Statement (.crcUpdate b) := by
  refine ⟨rfl, by simp [Instr.row, opcodeMap], ?_⟩
  have mask : (0xFF00FFFFFFFF#48) = packWord 0xFF#8 0#8 0xFFFF#16 0xFFFF#16 := by decide
  simp only [OpcodeRow.selects, Instr.row, encode, mask, packWord_and, BitVec.and_zero]
  decide

theorem crcRead : Statement .crcRead := by
  refine ⟨rfl, ?_, ?_⟩ <;> decide

theorem frameReadMem (tag : Byte) (sb nb : Word16) : Statement (.frameReadMem tag sb nb) := by
  refine ⟨rfl, by simp [Instr.row, opcodeMap], ?_⟩
  have mask : (0xFF0000000000#48) = packWord 0xFF#8 0#8 0#16 0#16 := by decide
  simp only [OpcodeRow.selects, Instr.row, encode, mask, packWord_and, BitVec.and_zero]
  decide

end Sys2Proof.Laws.OpcodeRow
end

