-- ==== Sys2Proof/Laws/Step.lean ====
section
/-! SUPPORT. Everything a step can do: one inversion lemma per operation of Machine/Transaction.lean, and one for the
step. -/

namespace Sys2Proof.Machine

/-- A reset pulse that answers a next state was long enough, and leaves the reset state. -/
theorem finishReset_next {edges : Nat} {s t : State} (h : finishReset edges s = .next t) :
    Config.tReset ≤ edges ∧ t = s.applyReset := by
  unfold finishReset at h
  split_ifs at h with hlt
  exact ⟨Nat.le_of_not_lt hlt, by simpa using h.symm⟩

/-- An accepted word that answers a next state encodes a command, which has run on the latched word. -/
theorem acceptWord_next {w : Word48} {s t : State} {run : Instr → State → StepResult}
    (h : acceptWord w s run = .next t) :
    ∃ i, decode w = .command i ∧ run i (s.latch w) = .next t := by
  unfold acceptWord at h
  split at h
  · exact ⟨_, ‹_›, h⟩
  · simp [raiseIllegal] at h

/-- Presenting a word answers a next state only without a fault and within the ports' rules: the idle core accepts
the word, another makes an edge with the word held. -/
theorem presentWord_next {w : Word48} {m : HostMove} {s t : State} {run : Instr → State → StepResult}
    (h : presentWord w m s run = .next t) :
    s.faulted = false ∧ s.portProblem (Pins.presenting w) = none ∧
    ((s.idle = true ∧ acceptWord w s run = .next t) ∨
      (s.idle = false ∧ t = (s.clock (Pins.presenting w) Pace.reference).setHost (m :: s.host))) := by
  unfold presentWord at h
  cases hf : s.faulted <;> cases hp : s.portProblem (Pins.presenting w) <;> cases hi : s.idle <;>
    simp [hf, hp, hi] at h
  · exact ⟨rfl, rfl, .inr ⟨rfl, h.symm⟩⟩
  · exact ⟨rfl, rfl, .inl ⟨rfl, h⟩⟩

/-- A clock edge that answers a next state is the hardware's edge, and it accepts no illegal word. -/
theorem edgeStep_next {pins : Pins} {pace : Pace} {s t : State} (h : edgeStep pins pace s = .next t) :
    (pins.rst = false → s.faulted = false) ∧ s.portProblem pins = none ∧
    (s.cmdReady pins.rst = true → pins.cmdValid = true → ∃ i, decode pins.cmdWord = .command i) ∧
    t = s.clock pins pace := by
  unfold edgeStep at h
  by_cases hf : (s.faulted && !pins.rst) = true
  · simp [hf] at h
  cases hp : s.portProblem pins with
  | some r => simp [hf, hp] at h
  | none =>
    by_cases hi : (s.cmdReady pins.rst && pins.cmdValid && (decode pins.cmdWord).instr?.isNone) = true
    · simp [hf, hp, hi, raiseIllegal] at h
    · simp only [hf, hp, hi] at h
      refine ⟨?_, rfl, ?_, by simpa using h.symm⟩
      · intro hr
        simpa [hr] using hf
      · intro hr hv
        cases hd : decode pins.cmdWord with
        | command i => exact ⟨i, rfl⟩
        | illegal w => exact absurd (by simp [hr, hv, hd, Decoded.instr?]) hi

/-- Everything a step that answers a next state can have done. -/
theorem step_next {s t : State} (h : step s = .next t) :
    (s.host = [] ∧ t = s) ∨
    (∃ w rest, s.host = .command w :: rest ∧
      presentWord w (.command w) (s.setHost rest) exec = .next t) ∨
    (∃ edges rest, s.host = .reset edges :: rest ∧ Config.tReset ≤ s.rstHeld + edges ∧
      t = (s.setHost rest).applyReset) ∨
    (∃ w taken edges rest, s.host = .interrupted w taken edges :: rest ∧
      presentWord w (.interrupted w taken edges) (s.setHost rest) (cutShort taken edges) = .next t) ∨
    (∃ pins pace rest, s.host = .edge pins pace :: rest ∧ edgeStep pins pace (s.setHost rest) = .next t) := by
  unfold step nextMove at h
  split at h
  · exact .inl ⟨‹_›, by simpa using h.symm⟩
  · rename_i m rest hm
    cases m with
    | command w => exact .inr (.inl ⟨w, rest, hm, h⟩)
    | reset edges =>
      obtain ⟨hlen, ht⟩ := finishReset_next h
      exact .inr (.inr (.inl ⟨edges, rest, hm, hlen, ht⟩))
    | interrupted w taken edges => exact .inr (.inr (.inr (.inl ⟨w, taken, edges, rest, hm, h⟩)))
    | edge pins pace => exact .inr (.inr (.inr (.inr ⟨pins, pace, rest, hm, h⟩)))

end Sys2Proof.Machine
end

