-- ==== Sys2Proof/Tests/Slice0.lean ====
section
/-! SUPPORT. Small tests against the spec's own vectors (95_test_vectors), and for every statement with hypotheses a state
and operands that meet them. -/

namespace Sys2Proof.Tests

open Sys2Proof.Machine

/-- The core right after reset, the host about to make these moves. -/
def withMoves (moves : List HostMove) : State := { State.reset with host := moves }

/-- The state a step answers, if it answers one. -/
def nextState : StepResult → Option State
  | .next t => some t
  | .fault _ => none
  | .refused _ => none

/-! ## Well-formed terms, and one ill-formed term for each check (30_encoding R68) -/

theorem test_instr_wellFormed : (Instr.frameReadMem 0xFF#8 0xFFFF#16 0xFFFF#16).wellFormed = true := by decide
theorem test_byte_in_range : (AsmLine.crcUpdate 255).wellFormed = true := by decide
theorem test_byte_out_of_range : (AsmLine.crcUpdate 256).wellFormed = false := by decide
theorem test_frame_in_range : (AsmLine.frameReadmem 255 65535 65535).wellFormed = true := by decide
theorem test_tag_out_of_range : (AsmLine.frameReadmem 256 0 0).wellFormed = false := by decide
theorem test_start_out_of_range : (AsmLine.frameReadmem 0 65536 0).wellFormed = false := by decide
theorem test_count_out_of_range : (AsmLine.frameReadmem 0 0 65536).wellFormed = false := by decide
theorem test_checksum_byte_out_of_range : (AsmLine.crcChecksum [0, 256]).wellFormed = false := by decide

/-! ## Decoding: each command's word written out bit by bit from its format (R60 to R64); V-DEC-2 to V-DEC-18 -/

theorem test_decode_crcInit :
    decode 0b000000010000000000000000000000000000000000000000#48 = .command .crcInit := by decide
theorem test_decode_crcUpdate :
    decode 0b000000100011000100000000000000000000000000000000#48 = .command (.crcUpdate 0x31#8) := by decide
theorem test_decode_crcRead :
    decode 0b000000110000000000000000000000000000000000000000#48 = .command .crcRead := by decide
theorem test_decode_frameReadMem :
    decode 0b000100000001001000110100010101100111100010011010#48 =
      .command (.frameReadMem 0x12#8 0x3456#16 0x789A#16) := by decide
theorem test_decode_strayBit0 : decode 0x010000000001#48 = .illegal 0x010000000001#48 := by decide
theorem test_decode_strayBit39 : decode 0x018000000000#48 = .illegal 0x018000000000#48 := by decide
theorem test_decode_strayBit31 : decode 0x02FF80000000#48 = .illegal 0x02FF80000000#48 := by decide
theorem test_decode_opcode0F : decode 0x0F0000000000#48 = .illegal 0x0F0000000000#48 := by decide
theorem test_decode_opcode11 : decode 0x110000000000#48 = .illegal 0x110000000000#48 := by decide
theorem test_decode_allOnes : decode 0xFFFFFFFFFFFF#48 = .illegal 0xFFFFFFFFFFFF#48 := by decide
theorem test_illegalReason : illegalReason 0x200100000001#48 = some .unassignedOpcode ∧
    illegalReason 0x030100000000#48 = some .nonzeroBits ∧ illegalReason 0x10FFFFFFFFFF#48 = none := by decide
theorem test_encode_frameReadMem : encode (.frameReadMem 0x80#8 0x0100#16 0x0010#16) = 0x108001000010#48 := by decide
theorem test_decodeTableWord : decodeTableWord 48 0x023100000000 = some (.crcUpdate 0x31#8) ∧
    decodeTableWord 48 0x200100000001 = none := by decide

/-! ## The checksum functions: V-STEP-4, V-STEP-8, V-BYTE-9, V-CRC-7, V-CRC-11, V-CRC-12 -/

theorem test_step_8000 : crcStep 0x8000#16 = 0x1021#16 := by decide
theorem test_step_F0F0 : crcStep 0xF0F0#16 = 0xF1C1#16 := by decide
theorem test_byte_1234_56 : crcByte 0x1234#16 0x56#8 = 0x3C40#16 := by decide
theorem test_serial_1234_56 : crcByteSerial 0x1234#16 0x56#8 = 0x3C40#16 := by decide
theorem test_crc_FF_FF : crc16 [0xFF#8, 0xFF#8] = 0x0000#16 := by decide +kernel
theorem test_crc_prefix7 : crc16 [0x09#8, 0x00#8, 0x20#8, 0x01#8, 0x00#8, 0x00#8, 0x00#8] = 0xA402#16 := by decide +kernel
theorem test_crc_noLength : crc16 [0x00#8, 0x20#8, 0x01#8, 0x00#8, 0x00#8, 0x00#8, 0x01#8] = 0x7EB6#16 := by decide +kernel

/-! ## One step of each command: V-CMD-1, V-CMD-7, V-BYTE-6, V-FRM-7, V-FRM-8 -/

theorem test_step_crcInit : (nextState (step { withMoves [.command 0x010000000000#48] with acc := 0x29B1#16 })).map
    State.observe = some ⟨0xFFFF#16, [], false⟩ := by decide
theorem test_step_crcUpdate : (nextState (step { withMoves [.command 0x028000000000#48] with acc := 0x0000#16 })).map
    State.observe = some ⟨0x9188#16, [], false⟩ := by decide
theorem test_step_crcRead : (nextState (step { withMoves [.command 0x030000000000#48] with acc := 0x00FF#16 })).map
    State.observe = some ⟨0x00FF#16, [0x00#8, 0xFF#8], false⟩ := by decide
theorem test_step_frame : (nextState (step (withMoves [.command 0x10123456789A#48]))).map State.observe =
    some ⟨0xFFFF#16, [0x09#8, 0x00#8, 0x20#8, 0x12#8, 0x34#8, 0x56#8, 0x78#8, 0x9A#8, 0xB4#8, 0x93#8], false⟩ := by
  decide +kernel
theorem test_fetch_frame : (nextState (step (State.reset.withFetchWord 48 0x108001000010))).map State.observe =
    some ⟨0xFFFF#16, [0x09#8, 0x00#8, 0x20#8, 0x80#8, 0x01#8, 0x00#8, 0x00#8, 0x10#8, 0x1B#8, 0x6A#8], false⟩ := by
  decide +kernel
/-- The illegal word of program P6: the run ends with the mark set, `acc` and the output as they were. -/
theorem test_illegal_word_ends_the_run :
    (finalState 2 { withMoves [.command 0x200100000001#48, .command 0x030000000000#48] with
      acc := 0x1D0F#16, out := [0x1D#8, 0x0F#8] }).observe = ⟨0x1D0F#16, [0x1D#8, 0x0F#8], true⟩ := by decide

/-! ## Edges and reset: the reference counts of 70_reset R170 on one command, V-RST-4, V-RST-5, V-RST-6 -/

/-- The core just after an edge that accepted `w`. -/
def accepted (w : Word48) : State := State.reset.clock (Pins.presenting w) Pace.reference

/-- The input levels of an edge with `rst` high. -/
def resetPins : Pins := ⟨true, false, 0#48, false⟩

theorem test_update_takes_eight_edges : ((accepted 0x023100000000#48).clockReference 7).busy = true ∧
    ((accepted 0x023100000000#48).clockReference 8).busy = false ∧
    ((accepted 0x023100000000#48).clockReference 8).acc = 0xC782#16 := by decide +kernel
/-- V-TRACE-1: `acc` after the third bit step. -/
theorem test_update_third_edge : ((accepted 0x023100000000#48).clockReference 3).acc = 0x173E#16 := by decide
theorem test_read_presents_high_byte : (accepted 0x030000000000#48).pinsOut false =
    ⟨false, true, some 0xFF#8, some false⟩ := by decide
theorem test_reset_in_update :
    (((accepted 0x023200000000#48).clockReference 3).clock resetPins Pace.reference).acc = 0xFFFF#16 := by decide
theorem test_reset_in_frame : (((accepted 0x100100000001#48).clockReference 24).clock resetPins Pace.reference).out =
    [0x09#8, 0x00#8, 0x20#8] := by decide +kernel
theorem test_reset_keeps_faulted : ({ State.reset with faulted := true }.applyReset).faulted = true := by decide

/-! ## The assembler: a comment line, an empty line and the pseudo-instruction without operands (R68, R69) -/

theorem test_assemble_blank_and_checksum :
    assemble [[';', ' ', 'x'], [], ['c', 'r', 'c', '.', 'c', 'h', 'e', 'c', 'k', 's', 'u', 'm']] =
      some [0x010000000000#48, 0x030000000000#48] := by decide
theorem test_assemble_missing_operand : assemble [['c', 'r', 'c', '.', 'u', 'p', 'd', 'a', 't', 'e']] = none := by decide

/-! ## Witnesses: for each statement with hypotheses, values that meet them all -/

theorem waiting_withMoves (moves : List HostMove) : (withMoves moves).Waiting := ⟨rfl, rfl, rfl, rfl⟩

theorem inv_withMoves (moves : List HostMove) : (withMoves moves).Inv :=
  ⟨fun h => absurd h (by simp [withMoves, State.reset]), fun _ => ⟨rfl, rfl, rfl⟩,
    fun h => absurd h (by simp [withMoves, State.reset])⟩

/-- The core with the two bytes of CRC_READ pending and the first one presented. -/
def reading : State := accepted 0x030000000000#48

theorem inv_reading : reading.Inv := by
  refine ⟨fun _ => by decide, fun h => absurd h (by decide), fun _ => ⟨.crcRead, by decide, ?_⟩⟩
  refine ⟨by decide, by decide, by decide, ?_, ?_⟩
  · exact ⟨[], by decide⟩
  · exact ⟨[], by decide⟩

/-- DecodingFollowsTheOpcodeMap. -/
theorem witness_opcodeMap : (∃ r ∈ opcodeMap, r.selects 0x02FF00000000#48 = true) ∧
    decode 0x02FF00000000#48 = .command (.crcUpdate 0xFF#8) := by decide

/-- IllegalWordsAreExactlyThese, IllegalWordFaults, FaultMarkIsKept (its third part on a faulted state). -/
theorem witness_illegal_word : (withMoves [.command 0x040000000000#48]).Waiting ∧
    (withMoves [.command 0x040000000000#48]).host = .command 0x040000000000#48 :: [] ∧
    decode 0x040000000000#48 = .illegal 0x040000000000#48 :=
  ⟨waiting_withMoves _, rfl, by decide⟩

/-- StepRunsTheDecodedCommand, LegalCommandsRaiseNothing. -/
theorem witness_decoded_command : (withMoves [.command (encode (.crcUpdate 0x31#8))]).Waiting ∧
    (withMoves [.command (encode (.crcUpdate 0x31#8))]).host = .command (encode (.crcUpdate 0x31#8)) :: [] ∧
    decode (encode (.crcUpdate 0x31#8)) = .command (.crcUpdate 0x31#8) :=
  ⟨waiting_withMoves _, rfl, by decide⟩

/-- BitStepShiftsAndReduces: the boundary of its second part. -/
theorem witness_top_bit : 0x8000 ≤ (0x8000#16).toNat := by decide

/-- CrcInitCommand, CrcReadCommand, CrcUpdateCommand, FrameReadMemCommand: words of each of their hypotheses. -/
theorem witness_words : (opcField 0x018000000000#48 = 0x01#8 ∧ operandBits 0x018000000000#48 ≠ 0#40) ∧
    (opcField 0x030000000001#48 = 0x03#8 ∧ operandBits 0x030000000001#48 ≠ 0#40) ∧
    (opcField 0x02FF00000000#48 = 0x02#8 ∧ lowBits 0x02FF00000000#48 = 0#32) ∧
    (opcField 0x020080000000#48 = 0x02#8 ∧ lowBits 0x020080000000#48 ≠ 0#32) ∧
    opcField 0x10FFFFFFFFFF#48 = 0x10#8 := by decide

/-- CrcInitCommand, CrcReadCommand, RepeatedCommands: a command that answers a next state, from the example's `acc`. -/
theorem witness_exec : ∃ t u, exec .crcInit { State.reset with acc := 0x29B1#16 } = .next t ∧
    exec .crcRead { State.reset with acc := 0x29B1#16 } = .next u :=
  ⟨_, _, rfl, rfl⟩

/-- FrameProperties: operands that differ. -/
theorem witness_other_operands : (0x01#8 : Byte) ≠ 0x00#8 ∧ (0x0100#16 : Word16) ≠ 0x0001#16 := by decide

/-- ChecksumSequenceComputesTheChecksum: a sequence with a frame between its commands, and one without. -/
theorem witness_checksum_sequence :
    (withMoves (([Instr.crcInit, .frameReadMem 0#8 0#16 0#16, .crcUpdate 0x31#8] ++ [Instr.crcRead]).map HostMove.issue ++ [])).Waiting ∧
    [Instr.crcInit, .frameReadMem 0#8 0#16 0#16, .crcUpdate 0x31#8].filter (fun i => !isFrame i) =
      .crcInit :: [0x31#8].map Instr.crcUpdate ∧
    [Instr.crcInit, .crcUpdate 0x31#8].filter (fun i => !isFrame i) = .crcInit :: [0x31#8].map Instr.crcUpdate :=
  ⟨waiting_withMoves _, by decide, by decide⟩

/-- SharedAccumulatorMixesCallers. -/
theorem witness_no_init : [Instr.crcUpdate 0x41#8, .crcRead, .frameReadMem 0#8 0#16 0#16].any isInit = false := by decide

/-- OnlyInitUpdateAndResetChangeAcc: a step that changes `acc`, by a command and by reset. -/
theorem witness_acc_changes :
    (∃ t, step (withMoves [.command 0x020000000000#48]) = .next t ∧
      t.acc ≠ (withMoves [.command 0x020000000000#48]).acc) ∧
    (∃ t, step { withMoves [.reset Config.tReset] with acc := 0#16 } = .next t ∧ t.acc ≠ 0#16) := by
  refine ⟨⟨_, rfl, by decide⟩, ⟨State.reset, ?_, by decide⟩⟩
  simp [step, nextMove, runMove, finishReset, withMoves, State.setHost, State.applyReset, State.reset]

/-- The same at an edge: a byte update in progress, and an edge with `rst` high. -/
theorem witness_acc_changes_at_an_edge :
    (∃ t, step { accepted 0x023100000000#48 with host := [.edge (Pins.quiet true) Pace.reference] } = .next t ∧
      t.acc ≠ (accepted 0x023100000000#48).acc) ∧
    (∃ t, step { withMoves [.edge resetPins Pace.reference] with acc := 0#16 } = .next t ∧ t.acc ≠ 0#16) :=
  ⟨⟨_, rfl, by decide⟩, ⟨_, rfl, by decide⟩⟩

/-- OutputStreamOnlyGrows, FaultMarkIsKept, EveryStepKeepsTheInvariant: a step from a state that meets the invariant. -/
theorem witness_step_from_inv : (withMoves [.command 0x030000000000#48]).Inv ∧
    ∃ t, step (withMoves [.command 0x030000000000#48]) = .next t :=
  ⟨inv_withMoves _, _, rfl⟩

/-- FaultMarkIsKept: a faulted state with a command to come. -/
theorem witness_faulted : { withMoves [.command 0x030000000000#48] with faulted := true }.faulted = true ∧
    { withMoves [.command 0x030000000000#48] with faulted := true }.host = .command 0x030000000000#48 :: [] :=
  ⟨rfl, rfl⟩

/-- NoMoveNoChange. -/
theorem witness_no_move : State.reset.host = [] := rfl

/-- ResetEdge. -/
theorem witness_reset_pins : resetPins.rst = true := rfl

/-- ResetMoveNeedsEnoughEdges: a pulse of exactly `T_RESET` edges, and one of none. -/
theorem witness_reset_lengths :
    (withMoves [.reset Config.tReset]).host = .reset Config.tReset :: [] ∧
    Config.tReset ≤ (withMoves [.reset Config.tReset]).rstHeld + Config.tReset ∧
    (withMoves [.reset 0]).host = .reset 0 :: [] ∧ (withMoves [.reset 0]).rstHeld + 0 < Config.tReset :=
  ⟨rfl, by simp, rfl, Nat.succ_pos _⟩

/-- ResetCutsACommandShort: a frame cut after its ninth byte, the last draw there is, and a command without output. -/
theorem witness_cut_short :
    (withMoves [.interrupted (encode (.frameReadMem 1#8 0#16 1#16)) 9 Config.tReset]).Waiting ∧
    (9 < (commandOutput (.frameReadMem 1#8 0#16 1#16) State.reset).length) ∧
    (withMoves [.interrupted (encode (.crcUpdate 1#8)) 0 Config.tReset]).Waiting ∧ Config.tReset ≤ Config.tReset :=
  ⟨waiting_withMoves _, by decide, waiting_withMoves _, Nat.le_refl _⟩

/-- ResetAtAnEdgeLeavesAPrefix: a CRC_READ with its first byte taken, and a CRC_UPDATE in progress. -/
theorem witness_reset_at_an_edge :
    (withMoves []).Inv ∧ (withMoves []).Waiting ∧ resetPins.rst = true ∧
    (((withMoves []).clock ⟨false, true, encode .crcRead, true⟩ Pace.reference).clockQuiet [(true, Pace.reference)]).idle =
      false ∧
    (((withMoves []).clock ⟨false, true, encode (.crcUpdate 1#8), true⟩ Pace.reference).clockQuiet []).idle = false :=
  ⟨inv_withMoves _, waiting_withMoves _, rfl, by decide, by decide⟩

/-- ReadyExactlyWhenIdle (second part). -/
theorem witness_not_ready : (reading.pinsOut false).cmdReady = false := by decide

/-- The core with a CRC_READ in progress, the host about to make `move`, and `offered` on offer. -/
def busyWith (move : HostMove) (offered : Option Word48) : State :=
  { reading with host := [move], offered := offered }

/-- BusyCoreHoldsTheHost: both moves that present a word, each with nothing on offer and with the word itself on offer. -/
theorem witness_busy :
    ∀ move ∈ [HostMove.command 0x010000000000#48, .interrupted 0x010000000000#48 0 1],
    ∀ offered ∈ [none, some 0x010000000000#48],
    let s := busyWith move offered
    (move = .command 0x010000000000#48 ∨ move = .interrupted 0x010000000000#48 0 1) ∧ s.host = [move] ∧
    s.idle = false ∧ s.faulted = false ∧ s.rstHeld = 0 ∧
    (s.offered = none ∨ s.offered = some 0x010000000000#48) := by
  intro move hm offered ho
  exact ⟨by simpa using hm, rfl, show reading.idle = false by decide, show reading.faulted = false by decide,
    show reading.rstHeld = 0 by decide, by simpa [busyWith] using ho⟩

/-- AcceptanceLatchesTheWord: an edge that accepts, one that cannot, a word withdrawn and a word changed. -/
theorem witness_acceptance :
    ((State.reset.pinsOut false).cmdReady = true ∧ decode 0x030000000000#48 = .command .crcRead) ∧
    (reading.pinsOut false).cmdReady = false ∧
    ({ reading with offered := some 0x010000000000#48 }.faulted = false ∧ (Pins.quiet true).cmdValid = false) ∧
    (Pins.presenting 0x030000000000#48).cmdWord ≠ 0x010000000000#48 := by decide

/-- PresentedByteIsHeld. -/
theorem witness_presented : reading.Inv ∧ (reading.pinsOut false).outValid = true ∧ reading.current = some .crcRead ∧
    State.reset.outq = [] :=
  ⟨inv_reading, by decide, by decide, rfl⟩

/-- EdgesRefineCommands: a CRC_READ that the host takes late and that the core presents late. -/
theorem witness_edges_refine : (withMoves []).Inv ∧ (withMoves []).Waiting ∧
    decode 0x030000000000#48 = .command .crcRead ∧
    (((withMoves []).clock ⟨false, true, 0x030000000000#48, false⟩ ⟨false, false⟩).clockQuiet
      [(true, ⟨true, true⟩), (false, ⟨true, true⟩), (true, ⟨false, true⟩), (true, ⟨false, false⟩)]).idle = true :=
  ⟨inv_withMoves _, waiting_withMoves _, by decide, by decide⟩

/-- ReferenceCycleCounts. -/
theorem witness_cycles : (withMoves []).Inv ∧ (withMoves []).Waiting ∧
    decode 0x010000000000#48 = .command .crcInit ∧ referenceCycles .crcInit ≤ 1 :=
  ⟨inv_withMoves _, waiting_withMoves _, by decide, by decide⟩

/-- AcceptedCommandsComplete. -/
theorem witness_enabled_edges : reading.Inv ∧
    84 ≤ ((List.replicate 84 (true, Pace.reference)).filter enabledEdge).length :=
  ⟨inv_reading, by decide⟩

/-- AssemblerKeepsRanges, ChecksumPseudoInstruction: the last number of each range and the first beyond it. -/
theorem witness_ranges : 255 < 256 ∧ 65535 < 65536 ∧ 256 ≤ 256 ∧ 65536 ≤ 65536 ∧ ∃ n ∈ [0, 256], 256 ≤ n := by decide

end Sys2Proof.Tests
end

/-! # The invariant of the working state

How an edge moves the working state of a command in progress, which part of it survives between the operations of one
edge (`State.Engaged`), and from these the invariant's step lemma. -/

namespace Sys2Proof.Machine

/-! ## Facts about the clock's operations -/

/-- An idle core has no command in progress and no byte pending (20_memory R43). -/
theorem State.idle_iff (s : State) : s.idle = true ↔ s.busy = false ∧ s.outq = [] := by
  simp [State.idle]

@[simp] theorem State.setHost_current (s : State) (moves : List HostMove) :
    (s.setHost moves).current = s.current := rfl

@[simp] theorem State.setHost_idle (s : State) (moves : List HostMove) : (s.setHost moves).idle = s.idle := rfl

section
variable (s : State) (w : Word48) (i : Instr)

@[simp] theorem State.start_acc : (s.start w i).acc = s.acc := by cases i <;> rfl
@[simp] theorem State.start_out : (s.start w i).out = s.out := by cases i <;> rfl
@[simp] theorem State.start_faulted : (s.start w i).faulted = s.faulted := by cases i <;> rfl
@[simp] theorem State.start_busy : (s.start w i).busy = true := by cases i <;> rfl
@[simp] theorem State.start_bitcnt : (s.start w i).bitcnt = 0#4 := by cases i <;> rfl
@[simp] theorem State.start_fidx : (s.start w i).fidx = 0#4 := by cases i <;> rfl
@[simp] theorem State.start_shown : (s.start w i).shown = s.shown := by cases i <;> rfl

/-- The command started is the one its word encodes. -/
theorem State.start_current {w : Word48} {i : Instr} (h : decode w = .command i) :
    (s.start w i).current = some i := by
  have latched : (s.start w i).current = (s.latch w).current := by cases i <;> rfl
  rw [latched, s.current_latch h]

end

/-- At an edge the idle core starts the command presented to it, or, when there is none, changes only what it keeps of
its ports (20_memory R42, 60_exceptions R131). -/
theorem State.acceptEdge_cases (s : State) (pins : Pins) (pace : Pace) :
    (∃ i, pins.cmdValid = true ∧ decode pins.cmdWord = .command i ∧
      s.acceptEdge pins pace = (s.start pins.cmdWord i).present pace.emit) ∨
    ((pins.cmdValid = false ∨ ∃ w, decode pins.cmdWord = .illegal w) ∧
      s.acceptEdge pins pace = { s with offered := none, rstHeld := 0 }) := by
  unfold State.acceptEdge
  cases hv : pins.cmdValid with
  | false => simp
  | true => cases hd : decode pins.cmdWord <;> simp

/-- The three kinds of edge: reset, one of the idle core, one of a core at work (60_exceptions R133, 20_memory R43). -/
theorem State.clock_cases (s : State) (pins : Pins) (pace : Pace) :
    (pins.rst = true ∧
      s.clock pins pace = { s.applyReset with rstHeld := s.rstHeld + 1, offered := pins.offer }) ∨
    (pins.rst = false ∧ s.idle = true ∧ s.clock pins pace = s.acceptEdge pins pace) ∨
    (pins.rst = false ∧ s.idle = false ∧
      s.clock pins pace = { s.advance pins.outReady pace with offered := pins.offer, rstHeld := 0 }) := by
  unfold State.clock
  cases pins.rst <;> cases s.idle <;> simp

/-- The engine's part of an edge: its step, if a command is in progress and the pace has one here. -/
def State.engine (s : State) (stepped : Bool) : State := if s.busy && stepped then s.work else s

/-- An edge of a core at work, one operation after the other. -/
theorem State.advance_eq (s : State) (outReady : Bool) (pace : Pace) :
    s.advance outReady pace = (((s.takeByte outReady).engine pace.bit).present pace.emit).retire pace.bit := rfl

/-- The engine makes a step of the command in progress, or changes nothing. -/
theorem State.engine_cases (s : State) (stepped : Bool) :
    (s.engine stepped = s.work ∧ s.busy = true ∧ stepped = true) ∨ s.engine stepped = s := by
  unfold State.engine
  cases s.busy <;> cases stepped <;> simp

@[simp] theorem State.engine_busy (s : State) (stepped : Bool) : (s.engine stepped).busy = s.busy := by
  rcases s.engine_cases stepped with ⟨h, -⟩ | h <;> simp [h]
@[simp] theorem State.engine_shown (s : State) (stepped : Bool) : (s.engine stepped).shown = s.shown := by
  rcases s.engine_cases stepped with ⟨h, -⟩ | h <;> simp [h]
@[simp] theorem State.engine_current (s : State) (stepped : Bool) : (s.engine stepped).current = s.current := by
  rcases s.engine_cases stepped with ⟨h, -⟩ | h <;> simp [h]

/-! ## One bit step of a frame -/

section
variable (tag : Byte) (sb nb : Word16)

/-- The message one byte further. -/
theorem frameMessage_take_succ {n : Nat} (h : n < 8) :
    (frameMessage tag sb nb).take (n + 1) =
      (frameMessage tag sb nb).take n ++ [(frameMessage tag sb nb).getD n 0#8] := by
  have hn : n < (frameMessage tag sb nb).length := h
  rw [List.getD_eq_getElem _ _ hn, List.take_append_getElem]

/-- `facc` and the output queue after a bit step of the frame byte at `fidx`, the counters not yet
moved. -/
def State.foldFrame (s : State) : State :=
  let b := (frameMessage tag sb nb).getD s.fidx.toNat 0#8
  { s with facc := foldStep s.firstBit s.facc b, outq := if s.firstBit then s.outq ++ [b] else s.outq }

/-- A bit step of a FRAME_READ_MEM: within a byte, at the end of bytes 0 to 6, at the end of byte 7, or none when all
bytes are done. -/
theorem State.workFrame_cases (s : State) :
    (8 ≤ s.fidx.toNat ∧ s.workFrame tag sb nb = s) ∨
    (s.fidx.toNat < 8 ∧ s.bitcnt.toNat < 7 ∧
      s.workFrame tag sb nb = { s.foldFrame tag sb nb with bitcnt := s.bitcnt + 1#4 }) ∨
    (s.fidx.toNat < 7 ∧ 7 ≤ s.bitcnt.toNat ∧
      s.workFrame tag sb nb = { s.foldFrame tag sb nb with bitcnt := 0#4, fidx := s.fidx + 1#4 }) ∨
    (s.fidx.toNat = 7 ∧ 7 ≤ s.bitcnt.toNat ∧
      s.workFrame tag sb nb = { s.foldFrame tag sb nb with
        outq := (s.foldFrame tag sb nb).outq ++ bigEndian (s.foldFrame tag sb nb).facc
        bitcnt := 0#4, fidx := 10#4 }) := by
  unfold State.workFrame
  by_cases h8 : s.fidx.toNat < 8
  · by_cases hb : s.bitcnt.toNat < 7
    · exact .inr (.inl ⟨h8, hb, by simp [h8, hb, State.foldFrame]⟩)
    · by_cases h7 : s.fidx.toNat < 7
      · exact .inr (.inr (.inl ⟨h7, by omega, by simp [h8, hb, h7, State.foldFrame]⟩))
      · exact .inr (.inr (.inr ⟨by omega, by omega, by simp [h8, hb, h7, State.foldFrame]⟩))
  · exact .inl ⟨by omega, by simp [h8]⟩

/-- `bitcnt` is zero exactly at the first bit step of a byte. -/
theorem State.firstBit_iff (s : State) : s.firstBit = true ↔ s.bitcnt = 0#4 := by
  simp [State.firstBit]

/-- After the bit step numbered `bitcnt` the accumulator `facc` is that many steps and one more into the update by the
byte at `fidx` (40_checksum R81). -/
theorem State.foldFrame_facc {s : State} (hidx : s.fidx.toNat < 8) (hfacc : s.facc = frameAccumulated tag sb nb s) :
    (s.foldFrame tag sb nb).facc = crcSteps (s.bitcnt.toNat + 1)
      (crc16 ((frameMessage tag sb nb).take s.fidx.toNat) ^^^
        byteHigh ((frameMessage tag sb nb).getD s.fidx.toNat 0#8)) := by
  rw [crcSteps_succ]
  by_cases hb : s.bitcnt = 0#4 <;>
    simp [State.foldFrame, foldStep, State.firstBit, hb, hfacc, frameAccumulated, hidx]

/-- With the last bit step of a byte `facc` is the checksum of the message up to that byte. -/
theorem State.foldFrame_facc_byte {s : State} (hidx : s.fidx.toNat < 8) (hbit : s.bitcnt.toNat = 7)
    (hfacc : s.facc = frameAccumulated tag sb nb s) :
    (s.foldFrame tag sb nb).facc = crc16 ((frameMessage tag sb nb).take (s.fidx.toNat + 1)) := by
  rw [State.foldFrame_facc tag sb nb hidx hfacc, hbit, frameMessage_take_succ tag sb nb hidx, crc16_concat]
  rfl

/-- Bytes that join the queue join those handed to it. -/
theorem State.Delivering.append {s t : State} {pushed bytes : List Byte} (h : s.Delivering pushed)
    (hout : t.out = s.out) (hqueue : t.outq = s.outq ++ bytes) : t.Delivering (pushed ++ bytes) := by
  obtain ⟨hpending, hpushed⟩ := h
  rw [State.Delivering, hout, hqueue, ← List.append_assoc]
  exact ⟨(List.suffix_append_inj_of_length_eq rfl).2 ⟨hpending, rfl⟩,
    (List.suffix_append_inj_of_length_eq rfl).2 ⟨hpushed, rfl⟩⟩

/-- A byte that the host takes stays delivered: it has moved from the queue to the output stream. -/
theorem State.Delivering.takeByte {s : State} {pushed : List Byte} (h : s.Delivering pushed) (outReady : Bool) :
    (s.takeByte outReady).Delivering pushed := by
  obtain ⟨hqueue, hpushed⟩ := h
  rcases s.takeByte_cases outReady with ⟨ht, -⟩ | ⟨b, rest, hq, -, -, ht⟩
  · rw [ht]
    exact ⟨hqueue, hpushed⟩
  · rw [ht]
    rw [hq] at hqueue hpushed
    exact ⟨(List.suffix_cons b rest).trans hqueue, by simpa using hpushed⟩

/-- After any bit step of the byte at `fidx` the queue has been handed that byte and those before it. -/
theorem State.foldFrame_delivering {s : State} (hidx : s.fidx.toNat < 8)
    (h : s.Delivering (framePushed tag sb nb s)) :
    (s.foldFrame tag sb nb).Delivering ((frameMessage tag sb nb).take (s.fidx.toNat + 1)) := by
  by_cases hb : s.bitcnt = 0#4
  · have hpushed : framePushed tag sb nb s = (frameMessage tag sb nb).take s.fidx.toNat := by
      simp [framePushed, hidx, hb]
    rw [hpushed] at h
    rw [frameMessage_take_succ tag sb nb hidx]
    exact h.append rfl (if_pos (s.firstBit_iff.2 hb))
  · have hpushed : framePushed tag sb nb s =
        (frameMessage tag sb nb).take (s.fidx.toNat + 1) ++ [] := by
      simp [framePushed, hidx, hb]
    have hqueue : (s.foldFrame tag sb nb).outq = s.outq := if_neg (mt s.firstBit_iff.1 hb)
    rw [hpushed, List.append_nil] at h
    rwa [State.Delivering, hqueue]

end

/-! ## What survives between the operations of one edge -/

/-- The invariant's clause for a command in progress without what only a whole edge restores: a CRC_READ or a finished
frame may have no byte left to take, and a CRC_UPDATE may have made its eighth bit step. -/
def State.Engaged (s : State) : Instr → Prop
  | .crcInit => s.outq = [] ∧ s.bitcnt = 0#4 ∧ s.fidx = 0#4
  | .crcUpdate _ => s.outq = [] ∧ s.bitcnt.toNat ≤ 8 ∧ s.fidx = 0#4
  | .crcRead => s.bitcnt = 0#4 ∧ s.fidx = 0#4 ∧ s.Delivering (bigEndian s.acc)
  | .frameReadMem tag sb nb =>
    ((s.fidx.toNat < 8 ∧ s.bitcnt.toNat < 8) ∨ (s.fidx = 10#4 ∧ s.bitcnt = 0#4)) ∧
      s.facc = frameAccumulated tag sb nb s ∧ s.Delivering (framePushed tag sb nb s)

theorem State.InProgress.engaged {s : State} {i : Instr} (h : s.InProgress i) : s.Engaged i := by
  cases i with
  | crcInit => exact h
  | crcUpdate b =>
    obtain ⟨hq, hbit, hidx⟩ := h
    exact ⟨hq, hbit.le, hidx⟩
  | crcRead =>
    obtain ⟨-, h⟩ := h
    exact h
  | frameReadMem tag sb nb =>
    obtain ⟨hcnt, h⟩ := h
    exact ⟨hcnt.imp_right fun ⟨hidx, hbit, _⟩ => ⟨hidx, hbit⟩, h⟩

/-- A command that the edge does not complete is in progress after it: the engine is not done, or a byte is left. -/
theorem State.Engaged.inProgress {s : State} {i : Instr} {stepped : Bool} (h : s.Engaged i)
    (hcur : s.current = some i) (hleft : s.worked stepped = false ∨ s.outq ≠ []) : s.InProgress i := by
  cases i with
  | crcInit => exact h
  | crcUpdate b =>
    obtain ⟨hq, -, hidx⟩ := h
    have hbit : s.bitcnt.toNat < 8 := by simpa [State.worked, hcur, hq] using hleft
    exact ⟨hq, hbit, hidx⟩
  | crcRead =>
    have hq : s.outq ≠ [] := by simpa [State.worked, hcur] using hleft
    exact ⟨hq, h⟩
  | frameReadMem tag sb nb =>
    obtain ⟨hcnt, h⟩ := h
    refine ⟨hcnt.imp_right fun ⟨hidx, hbit⟩ => ⟨hidx, hbit, ?_⟩, h⟩
    simpa [State.worked, hcur, hidx] using hleft

/-- Taking a byte moves it within what has been delivered and leaves the rest alone. -/
theorem State.Engaged.takeByte {s : State} {i : Instr} (h : s.Engaged i) (outReady : Bool) :
    (s.takeByte outReady).Engaged i := by
  have nothing_to_take (hq : s.outq = []) : s.takeByte outReady = s := by simp [State.takeByte, hq]
  cases i with
  | crcInit =>
    have ⟨hq, _⟩ := h
    rwa [nothing_to_take hq]
  | crcUpdate b =>
    have ⟨hq, _⟩ := h
    rwa [nothing_to_take hq]
  | crcRead =>
    obtain ⟨hbit, hidx, hdel⟩ := h
    simpa [State.Engaged, hbit, hidx] using hdel.takeByte outReady
  | frameReadMem tag sb nb =>
    obtain ⟨hcnt, hfacc, hdel⟩ := h
    refine ⟨by simpa using hcnt, ?_, ?_⟩
    · simpa [frameAccumulated] using hfacc
    · simpa [framePushed] using hdel.takeByte outReady

theorem State.Engaged.workUpdate {s : State} {b : Byte} (h : s.Engaged (.crcUpdate b)) :
    (s.workUpdate b).Engaged (.crcUpdate b) := by
  obtain ⟨hq, hbit, hidx⟩ := h
  refine ⟨by simpa using hq, ?_, by simpa using hidx⟩
  unfold State.workUpdate
  split
  · simp only
    bv_omega
  · exact hbit

/-- A bit step of a frame keeps the frame's clause, in each of the four cases of the step. -/
theorem State.Engaged.workFrame {s : State} {tag : Byte} {sb nb : Word16}
    (h : s.Engaged (.frameReadMem tag sb nb)) :
    (s.workFrame tag sb nb).Engaged (.frameReadMem tag sb nb) := by
  have ⟨hcnt, hfacc, hdel⟩ := h
  have bit_of_idx (hidx : s.fidx.toNat < 8) : s.bitcnt.toNat < 8 := by
    rcases hcnt with ⟨-, hbit⟩ | ⟨-, hbit⟩ <;> simp [hbit]
  rcases s.workFrame_cases tag sb nb with
    ⟨-, hw⟩ | ⟨hidx, hbit, hw⟩ | ⟨hidx, hbit, hw⟩ | ⟨hidx, hbit, hw⟩ <;> rw [hw]
  · exact h
  · -- within a byte
    have hcount : (s.bitcnt + 1#4).toNat = s.bitcnt.toNat + 1 := by bv_omega
    have hne : s.bitcnt + 1#4 ≠ 0#4 := by bv_omega
    refine ⟨.inl ⟨hidx, by simp only; omega⟩, ?_, ?_⟩
    · have hf := State.foldFrame_facc tag sb nb hidx hfacc
      rw [← hcount] at hf
      simpa [frameAccumulated, State.foldFrame, hidx, hne] using hf
    · have hp := State.foldFrame_delivering tag sb nb hidx hdel
      simpa [framePushed, State.foldFrame, hidx, hne, State.Delivering] using hp
  · -- the last step of one of the bytes 0 to 6
    have hidx8 : s.fidx.toNat < 8 := by omega
    have hcount : (s.fidx + 1#4).toNat = s.fidx.toNat + 1 := by bv_omega
    have hlt : s.fidx.toNat + 1 < 8 := by omega
    have hbit7 : s.bitcnt.toNat = 7 := by have := bit_of_idx hidx8; omega
    refine ⟨.inl ⟨by simp only; omega, by simp⟩, ?_, ?_⟩
    · have hf := State.foldFrame_facc_byte tag sb nb hidx8 hbit7 hfacc
      simpa [frameAccumulated, hcount, hlt] using hf
    · have hp := State.foldFrame_delivering tag sb nb hidx8 hdel
      simpa [framePushed, hcount, hlt, State.Delivering] using hp
  · -- the last step of byte 7: the checksum follows
    have hidx8 : s.fidx.toNat < 8 := by omega
    have hbit7 : s.bitcnt.toNat = 7 := by have := bit_of_idx hidx8; omega
    have hall : (frameMessage tag sb nb).take (s.fidx.toNat + 1) = frameMessage tag sb nb := by
      rw [hidx]
      rfl
    have hf : (s.foldFrame tag sb nb).facc = frameCrc tag sb nb := by
      rw [State.foldFrame_facc_byte tag sb nb hidx8 hbit7 hfacc, hall, frameCrc]
    have hp := State.foldFrame_delivering tag sb nb hidx8 hdel
    rw [hall] at hp
    refine ⟨.inr ⟨rfl, rfl⟩, hf, ?_⟩
    rw [hf]
    exact hp.append rfl rfl

theorem State.Engaged.work {s : State} {i : Instr} (h : s.Engaged i) (hcur : s.current = some i) :
    s.work.Engaged i := by
  rw [s.work_eq hcur]
  cases i with
  | crcInit => exact h
  | crcUpdate b => exact h.workUpdate
  | crcRead => exact h
  | frameReadMem tag sb nb => exact h.workFrame

theorem State.Engaged.engine {s : State} {i : Instr} (h : s.Engaged i) (hcur : s.current = some i) (stepped : Bool) :
    (s.engine stepped).Engaged i := by
  rcases s.engine_cases stepped with ⟨he, -⟩ | he <;> rw [he]
  · exact h.work hcur
  · exact h

theorem State.Engaged.present {s : State} {i : Instr} (h : s.Engaged i) (emit : Bool) :
    (s.present emit).Engaged i := by
  rcases s.present_cases emit with ⟨hp, -⟩ | ⟨hp, -⟩ <;> rw [hp]
  · exact h
  · cases i <;> exact h

/-! ## A presented byte is a pending one -/

/-- A bit step of a frame takes no byte out of the queue, -/
theorem State.workFrame_outq_ne_nil {s : State} (tag : Byte) (sb nb : Word16) (h : s.outq ≠ []) :
    (s.workFrame tag sb nb).outq ≠ [] := by
  have folded : (s.foldFrame tag sb nb).outq ≠ [] := by
    unfold State.foldFrame
    dsimp only
    split <;> simp [h]
  rcases s.workFrame_cases tag sb nb with ⟨-, hw⟩ | ⟨-, -, hw⟩ | ⟨-, -, hw⟩ | ⟨-, -, hw⟩ <;> rw [hw]
  · exact h
  · exact folded
  · exact folded
  · simp [folded]

/-- and neither does the engine's step for another command. -/
theorem State.engine_outq_ne_nil {s : State} (stepped : Bool) (h : s.outq ≠ []) : (s.engine stepped).outq ≠ [] := by
  rcases s.engine_cases stepped with ⟨he, -⟩ | he <;> rw [he]
  · unfold State.work
    split
    · exact h
    · simpa using h
    · exact h
    · exact State.workFrame_outq_ne_nil _ _ _ h
    · exact h
  · exact h

theorem State.takeByte_shownPending {s : State} (outReady : Bool) (h : s.shown = true → s.outq ≠ []) :
    (s.takeByte outReady).shown = true → (s.takeByte outReady).outq ≠ [] := by
  rcases s.takeByte_cases outReady with ⟨ht, -⟩ | ⟨b, rest, -, -, -, ht⟩ <;> rw [ht]
  · exact h
  · simp

theorem State.present_shownPending {s : State} (emit : Bool) (h : s.shown = true → s.outq ≠ []) :
    (s.present emit).shown = true → (s.present emit).outq ≠ [] := by
  rcases s.present_cases emit with ⟨hp, -⟩ | ⟨hp, -, hq⟩ <;> rw [hp]
  · exact h
  · exact fun _ => hq

/-! ## The invariant -/

/-- Of what the core keeps of its ports and of the host, the invariant restricts `shown` only. -/
theorem State.Inv.setInterface {s : State} (h : s.Inv) {shown : Bool} (hshown : shown = true → s.outq ≠ [])
    (offered : Option Word48) (rstHeld : Nat) (moves : List HostMove) :
    ({ s with shown := shown, offered := offered, rstHeld := rstHeld, host := moves } : State).Inv where
  shownPending := hshown
  idleEmpty := h.idleEmpty
  busyLegal hb := by
    obtain ⟨i, hcur, hi⟩ := h.busyLegal hb
    exact ⟨i, hcur, by cases i <;> exact hi⟩

theorem State.Inv.setHost {s : State} (h : s.Inv) (moves : List HostMove) : (s.setHost moves).Inv :=
  h.setInterface h.shownPending s.offered s.rstHeld moves

theorem State.Inv.setPorts {s : State} (h : s.Inv) (offered : Option Word48) (rstHeld : Nat) :
    ({ s with offered := offered, rstHeld := rstHeld } : State).Inv :=
  h.setInterface h.shownPending offered rstHeld s.host

theorem State.Inv.present {s : State} (h : s.Inv) (emit : Bool) : (s.present emit).Inv := by
  rcases s.present_cases emit with ⟨hp, -⟩ | ⟨hp, -, hq⟩ <;> rw [hp]
  · exact h
  · exact h.setInterface (fun _ => hq) s.offered s.rstHeld s.host

/-- A core with no command in progress, counters at zero and nothing pending or presented meets the invariant. -/
theorem State.inv_of_not_busy {s : State} (hbusy : s.busy = false) (hq : s.outq = []) (hbit : s.bitcnt = 0#4)
    (hidx : s.fidx = 0#4) (hshown : s.shown = false) : s.Inv where
  shownPending h := by simp [hshown] at h
  idleEmpty _ := ⟨hq, hbit, hidx⟩
  busyLegal h := by simp [hbusy] at h

/-- In an idle core no byte is presented. -/
theorem State.Inv.shown_of_idle {s : State} (h : s.Inv) (hidle : s.idle = true) : s.shown = false := by
  obtain ⟨-, hq⟩ := s.idle_iff.1 hidle
  exact Bool.eq_false_iff.2 fun hshown => h.shownPending hshown hq

/-- A core that is not idle has a command in progress. -/
theorem State.Inv.busy_of_not_idle {s : State} (h : s.Inv) (hidle : s.idle = false) : s.busy = true := by
  by_contra hb
  have hb : s.busy = false := by simpa using hb
  obtain ⟨hq, -⟩ := h.idleEmpty hb
  simp [s.idle_iff.2 ⟨hb, hq⟩] at hidle

theorem State.reset_inv : State.reset.Inv := State.inv_of_not_busy rfl rfl rfl rfl rfl

theorem State.applyReset_inv (s : State) : s.applyReset.Inv := State.inv_of_not_busy rfl rfl rfl rfl rfl

/-- Completing a command, or not, restores the invariant at the end of an edge. -/
theorem State.Engaged.retire_inv {s : State} {i : Instr} (h : s.Engaged i) (hcur : s.current = some i)
    (hbusy : s.busy = true) (hshown : s.shown = true → s.outq ≠ []) (stepped : Bool) : (s.retire stepped).Inv := by
  rcases s.retire_cases stepped with ⟨hr, hleft⟩ | ⟨hr, -, hq⟩ <;> rw [hr]
  · exact ⟨hshown, by simp [hbusy], fun _ => ⟨i, hcur, h.inProgress hcur hleft⟩⟩
  · exact State.inv_of_not_busy rfl hq rfl rfl (Bool.eq_false_iff.2 fun hs => hshown hs hq)

theorem State.Inv.advance {s : State} (h : s.Inv) (hbusy : s.busy = true) (outReady : Bool) (pace : Pace) :
    (s.advance outReady pace).Inv := by
  obtain ⟨i, hcur, hi⟩ := h.busyLegal hbusy
  rw [State.advance_eq]
  have engaged := ((hi.engaged.takeByte outReady).engine (by simpa using hcur) pace.bit).present pace.emit
  refine engaged.retire_inv (by simpa using hcur) (by simpa using hbusy) ?_ pace.bit
  apply State.present_shownPending
  intro hshown
  rw [State.engine_shown] at hshown
  exact State.engine_outq_ne_nil pace.bit (State.takeByte_shownPending outReady h.shownPending hshown)

/-- A command just accepted by the idle core is in progress (20_memory R42). -/
theorem State.start_inProgress {s : State} (hq : s.outq = []) (w : Word48) (i : Instr) :
    (s.start w i).InProgress i := by
  cases i with
  | crcInit => exact ⟨hq, rfl, rfl⟩
  | crcUpdate b => exact ⟨hq, by simp, rfl⟩
  | crcRead => exact ⟨by simp [State.start, bigEndian], rfl, rfl, List.suffix_rfl, List.suffix_append _ _⟩
  | frameReadMem tag sb nb =>
    refine ⟨.inl ⟨by simp, by simp⟩, rfl, ?_⟩
    have nothing : framePushed tag sb nb (s.start w (.frameReadMem tag sb nb)) = [] := rfl
    rw [nothing]
    exact ⟨hq ▸ List.suffix_rfl, List.nil_suffix⟩

theorem State.Inv.start {s : State} (h : s.Inv) (hidle : s.idle = true) {w : Word48} {i : Instr}
    (hdec : decode w = .command i) : (s.start w i).Inv where
  shownPending hshown := by simp [h.shown_of_idle hidle] at hshown
  idleEmpty hbusy := by simp at hbusy
  busyLegal _ := ⟨i, s.start_current hdec, State.start_inProgress (s.idle_iff.1 hidle).2 w i⟩

theorem State.Inv.acceptEdge {s : State} (h : s.Inv) (hidle : s.idle = true) (pins : Pins) (pace : Pace) :
    (s.acceptEdge pins pace).Inv := by
  rcases s.acceptEdge_cases pins pace with ⟨i, -, hdec, ha⟩ | ⟨-, ha⟩ <;> rw [ha]
  · exact (h.start hidle hdec).present pace.emit
  · exact h.setPorts none 0

theorem State.Inv.clock {s : State} (h : s.Inv) (pins : Pins) (pace : Pace) : (s.clock pins pace).Inv := by
  rcases s.clock_cases pins pace with ⟨-, hc⟩ | ⟨-, hidle, hc⟩ | ⟨-, hidle, hc⟩ <;> rw [hc]
  · exact s.applyReset_inv.setPorts _ _
  · exact h.acceptEdge hidle pins pace
  · exact (h.advance (h.busy_of_not_idle hidle) _ _).setPorts _ _

/-- A command run as one transaction leaves the working state of the idle core as it was, but for
`facc`. -/
theorem State.Inv.exec {s t : State} {w : Word48} {i : Instr} (h : s.Inv) (hidle : s.idle = true)
    (hexec : exec i (s.latch w) = .next t) : t.Inv := by
  obtain ⟨hbusy, hq⟩ := s.idle_iff.1 hidle
  obtain ⟨-, hbit, hidx⟩ := h.idleEmpty hbusy
  obtain ⟨-, -, -, -, tbusy, tbit, tidx, -, tq, -, tshown, -⟩ := exec_next hexec
  exact State.inv_of_not_busy (tbusy.trans hbusy) (tq.trans hq) (tbit.trans hbit) (tidx.trans hidx)
    (tshown.trans (h.shown_of_idle hidle))

/-- Presenting a word keeps the invariant if running an accepted command does. -/
theorem State.Inv.presentWord {s t : State} {w : Word48} {m : HostMove} {run : Instr → State → StepResult}
    (h : s.Inv) (hrun : ∀ i, s.idle = true → run i (s.latch w) = .next t → t.Inv)
    (hpresent : presentWord w m s run = .next t) : t.Inv := by
  obtain ⟨-, -, ⟨hidle, haccept⟩ | ⟨-, rfl⟩⟩ := presentWord_next hpresent
  · obtain ⟨i, -, hi⟩ := acceptWord_next haccept
    exact hrun i hidle hi
  · exact (h.clock _ _).setHost _

/-- Settles O43, by the cases of a step: each is a command on the idle core, the reset event or one clock edge. -/
theorem everyStepKeepsTheInvariant : Obligations.EveryStepKeepsTheInvariant := by
  intro s t h hstep
  rcases step_next hstep with ⟨-, rfl⟩ | ⟨w, rest, -, hpresent⟩ | ⟨edges, rest, -, -, rfl⟩ |
    ⟨w, taken, edges, rest, -, hpresent⟩ | ⟨pins, pace, rest, -, hedge⟩
  · exact h
  · exact (h.setHost rest).presentWord (fun i hidle hexec => (h.setHost rest).exec hidle hexec) hpresent
  · exact State.applyReset_inv _
  · refine (h.setHost rest).presentWord (fun i _ hcut => ?_) hpresent
    obtain ⟨-, rfl⟩ := finishReset_next hcut
    exact State.applyReset_inv _
  · obtain ⟨-, -, -, rfl⟩ := edgeStep_next hedge
    exact (h.setHost rest).clock pins pace

/-- Settles O42: the core is idle there, its counters are zero and nothing is pending. -/
theorem invariantHoldsAtReset : Obligations.InvariantHoldsAtReset := State.reset_inv

/-- Settles O31: the reset state and the reset event field by field. -/
theorem resetLeavesTheResetState : Obligations.ResetLeavesTheResetState := by
  refine ⟨rfl, rfl, rfl, rfl, rfl, fun s => ?_, rfl, rfl, rfl, rfl, rfl⟩
  simp

/-! ## The fault mark -/

@[simp] theorem State.acceptEdge_faulted (s : State) (pins : Pins) (pace : Pace) :
    (s.acceptEdge pins pace).faulted = s.faulted := by
  rcases s.acceptEdge_cases pins pace with ⟨i, -, -, ha⟩ | ⟨-, ha⟩ <;> simp [ha]

/-- No edge touches the fault mark, reset included (60_exceptions R131). -/
@[simp] theorem State.clock_faulted (s : State) (pins : Pins) (pace : Pace) :
    (s.clock pins pace).faulted = s.faulted := by
  rcases s.clock_cases pins pace with ⟨-, hc⟩ | ⟨-, -, hc⟩ | ⟨-, -, hc⟩ <;> simp [hc]

/-- Presenting a word keeps the fault mark if running an accepted command does. -/
theorem presentWord_faulted {s t : State} {w : Word48} {m : HostMove} {run : Instr → State → StepResult}
    (hrun : ∀ i, run i (s.latch w) = .next t → t.faulted = (s.latch w).faulted)
    (hpresent : presentWord w m s run = .next t) : t.faulted = s.faulted := by
  obtain ⟨-, -, ⟨-, haccept⟩ | ⟨-, rfl⟩⟩ := presentWord_next hpresent
  · obtain ⟨i, -, hi⟩ := acceptWord_next haccept
    exact hrun i hi
  · simp

/-- A command run as one transaction keeps the fault mark. -/
theorem exec_faulted {i : Instr} {s t : State} (h : exec i s = .next t) : t.faulted = s.faulted := by
  obtain ⟨-, -, -, hfaulted, -⟩ := exec_next h
  exact hfaulted

/-- A step that answers a next state leaves the fault mark as it was. -/
theorem step_faulted {s t : State} (h : step s = .next t) : t.faulted = s.faulted := by
  rcases step_next h with ⟨-, rfl⟩ | ⟨w, rest, -, hpresent⟩ | ⟨edges, rest, -, -, rfl⟩ |
    ⟨w, taken, edges, rest, -, hpresent⟩ | ⟨pins, pace, rest, -, hedge⟩
  · rfl
  · exact presentWord_faulted (s := s.setHost rest) (fun _ hexec => exec_faulted hexec) hpresent
  · rfl
  · refine presentWord_faulted (s := s.setHost rest) (fun i hcut => ?_) hpresent
    obtain ⟨-, rfl⟩ := finishReset_next hcut
    rfl
  · obtain ⟨-, -, -, rfl⟩ := edgeStep_next hedge
    simp

/-- A run from a faulted state ends faulted, by induction on its number of steps. -/
theorem finalState_faulted (n : Nat) (s : State) (h : s.faulted = true) : (finalState n s).faulted = true := by
  induction n generalizing s with
  | zero => exact h
  | succ n ih =>
    unfold finalState
    split
    next t hstep => exact ih t ((step_faulted hstep).trans h)
    next => exact s.markFaulted_faulted
    next => exact h

/-- A faulted state takes no word. -/
theorem presentWord_of_faulted {s : State} (h : s.faulted = true) (w : Word48) (m : HostMove)
    (run : Instr → State → StepResult) : presentWord w m s run = .fault .alreadyFaulted :=
  if_pos h

/-- Settles O27, from `step_faulted`, `finalState_faulted` and `presentWord_of_faulted`. -/
theorem faultMarkIsKept : Obligations.FaultMarkIsKept := by
  refine ⟨fun s t => step_faulted, finalState_faulted, fun s w rest hfaulted hhost => ?_⟩
  have hmove : step s = presentWord w (.command w) (s.setHost rest) exec := by
    simp [step, nextMove, hhost, runMove]
  rw [hmove]
  exact presentWord_of_faulted (s := s.setHost rest) hfaulted w _ _

/-! ## What changes `acc` -/

/-- One of the two commands that write `acc` is in progress (10_state R20). -/
def State.WritingAcc (s : State) : Prop :=
  s.busy = true ∧ (s.current = some .crcInit ∨ ∃ b, s.current = some (.crcUpdate b))

/-- The engine changes `acc` only for a command in progress that writes it. -/
theorem State.engine_acc_ne {s : State} {stepped : Bool} (h : (s.engine stepped).acc ≠ s.acc) :
    s.WritingAcc := by
  rcases s.engine_cases stepped with ⟨he, hbusy, -⟩ | he <;> rw [he] at h
  · refine ⟨hbusy, ?_⟩
    cases hcur : s.current with
    | none => simp [State.work, hcur] at h
    | some i =>
      rw [s.work_eq hcur] at h
      cases i with
      | crcInit => exact .inl rfl
      | crcUpdate b => exact .inr ⟨b, rfl⟩
      | crcRead => exact absurd rfl h
      | frameReadMem tag sb nb => exact absurd (s.workFrame_acc tag sb nb) h
  · exact absurd rfl h

/-- An edge changes `acc` only by reset or for a command in progress that writes it. -/
theorem State.clock_acc_ne {s : State} {pins : Pins} {pace : Pace} (h : (s.clock pins pace).acc ≠ s.acc) :
    pins.rst = true ∨ s.WritingAcc := by
  rcases s.clock_cases pins pace with ⟨hrst, -⟩ | ⟨-, -, hc⟩ | ⟨-, -, hc⟩
  · exact .inl hrst
  · rw [hc] at h
    rcases s.acceptEdge_cases pins pace with ⟨i, -, -, ha⟩ | ⟨-, ha⟩ <;> simp [ha] at h
  · rw [hc] at h
    have hwork : ((s.takeByte pins.outReady).engine pace.bit).acc ≠ (s.takeByte pins.outReady).acc := by
      simpa [State.advance_eq] using h
    exact .inr (by simpa [State.WritingAcc] using State.engine_acc_ne hwork)

/-- Presenting a word changes `acc` only by the command the idle core accepts or for one in progress that writes it. -/
theorem presentWord_acc_ne {s t : State} {w : Word48} {m : HostMove} {run : Instr → State → StepResult}
    (h : presentWord w m s run = .next t) (hacc : t.acc ≠ s.acc) :
    (s.idle = true ∧ ∃ i, decode w = .command i ∧ run i (s.latch w) = .next t) ∨
      s.WritingAcc := by
  obtain ⟨-, -, ⟨hidle, haccept⟩ | ⟨-, rfl⟩⟩ := presentWord_next h
  · exact .inl ⟨hidle, acceptWord_next haccept⟩
  · exact .inr ((State.clock_acc_ne hacc).resolve_left (by simp [Pins.presenting]))

/-- Settles O29, by the cases of a step. -/
theorem onlyInitUpdateAndResetChangeAcc : Obligations.OnlyInitUpdateAndResetChangeAcc := by
  intro s t hstep hacc
  rcases step_next hstep with ⟨-, rfl⟩ | ⟨w, rest, hhost, hpresent⟩ | ⟨edges, rest, hhost, -, -⟩ |
    ⟨w, taken, edges, rest, hhost, hpresent⟩ | ⟨pins, pace, rest, hhost, hedge⟩
  · exact absurd rfl hacc
  · rcases presentWord_acc_ne hpresent hacc with ⟨hidle, i, hdec, hexec⟩ | hwriting
    · obtain ⟨-, hwrites, -⟩ := exec_next hexec
      refine .inl ⟨w, rest, hhost, hidle, ?_⟩
      rcases hwrites.resolve_left hacc with rfl | ⟨b, rfl⟩
      · exact .inl hdec
      · exact .inr ⟨b, hdec⟩
    · exact .inr (.inr (.inr (.inr hwriting)))
  · exact .inr (.inl ⟨edges, rest, hhost⟩)
  · rcases presentWord_acc_ne hpresent hacc with ⟨hidle, -⟩ | hwriting
    · exact .inr (.inr (.inl ⟨w, taken, edges, rest, hhost, hidle⟩))
    · exact .inr (.inr (.inr (.inr hwriting)))
  · obtain ⟨-, -, -, rfl⟩ := edgeStep_next hedge
    rcases State.clock_acc_ne hacc with hrst | hwriting
    · exact .inr (.inr (.inr (.inl ⟨pins, pace, rest, hhost, hrst⟩)))
    · exact .inr (.inr (.inr (.inr hwriting)))

end Sys2Proof.Machine

/-! # Commands in acceptance order, and the command port

Commands as transactions one after the other, what a step does with a word presented to the core, and what an edge does
with it. -/

namespace Sys2Proof.Machine

/-! ## Commands in acceptance order -/

/-- Every command answers a next state, with the `acc` and the output of the one-command list. -/
theorem exec_acc_out (i : Instr) (s : State) :
    ∃ t, exec i s = .next t ∧ t.acc = accAfter [i] s.acc ∧ t.out = s.out ++ outputAfter [i] s.acc := by
  cases i with
  | crcInit => exact ⟨_, rfl, rfl, by simp [outputAfter]⟩
  | crcUpdate b => exact ⟨_, rfl, rfl, by simp [outputAfter]⟩
  | crcRead => exact ⟨_, rfl, rfl, by simp [outputAfter]⟩
  | frameReadMem tag sb nb => exact ⟨_, rfl, rfl, by simp [outputAfter]⟩

theorem accAfter_cons (i : Instr) (is : List Instr) (a : Word16) :
    accAfter (i :: is) a = accAfter is (accAfter [i] a) := by
  cases i <;> rfl

theorem outputAfter_cons (i : Instr) (is : List Instr) (a : Word16) :
    outputAfter (i :: is) a = outputAfter [i] a ++ outputAfter is (accAfter [i] a) := by
  cases i <;> simp [outputAfter, accAfter]

/-- A list of commands answers a next state, with the `acc` and the output of the list. -/
theorem execAll_acc_out (is : List Instr) (s : State) :
    ∃ t, execAll is s = .next t ∧ t.acc = accAfter is s.acc ∧ t.out = s.out ++ outputAfter is s.acc := by
  induction is generalizing s with
  | nil => exact ⟨s, rfl, rfl, by simp [outputAfter]⟩
  | cons i is ih =>
    obtain ⟨t, ht, htacc, htout⟩ := exec_acc_out i s
    obtain ⟨u, hu, huacc, huout⟩ := ih t
    rw [htacc] at huacc huout
    refine ⟨u, by simp [execAll, ht, hu], by rw [accAfter_cons, huacc], ?_⟩
    rw [outputAfter_cons, huout, htout, List.append_assoc]

/-- A list of commands runs as its first part and then its second (20_memory R53). -/
theorem execAll_append {is : List Instr} {s t : State} (js : List Instr) (h : execAll is s = .next t) :
    execAll (is ++ js) s = execAll js t := by
  induction is generalizing s with
  | nil => rw [show s = t by simpa [execAll] using h, List.nil_append]
  | cons i is ih =>
    obtain ⟨u, hu, -⟩ := exec_acc_out i s
    simp only [List.cons_append, execAll, hu] at h ⊢
    exact ih h

/-- Settles O24, from `execAll_append` and what each part leaves in `acc` and the output. -/
theorem commandsRunInOrder : Obligations.CommandsRunInOrder := by
  refine ⟨fun is js s => ?_, fun a => ⟨rfl, fun _ => rfl, rfl, fun _ _ _ => rfl⟩⟩
  obtain ⟨t, ht, htacc, htout⟩ := execAll_acc_out is s
  obtain ⟨u, hu, -, huout⟩ := execAll_acc_out js t
  exact ⟨t, u, ht, hu, by rw [execAll_append js ht, hu], htacc, htout, by rw [huout, htout, htacc]⟩

/-! ## Repeated commands -/

/-- The byte update of a sum of accumulators, the byte folded into one of them. -/
theorem crcByte_xor (a d : Word16) (b : Byte) : crcByte (a ^^^ d) b = crcByte a b ^^^ crcSteps 8 d := by
  rw [crcByte, crcByte, ← crcSteps_xor]
  congr 1
  ac_rfl

/-- For no byte does the byte update leave all its own results alone: the results from 0 and from 1 differ by 0x0100,
which eight bit steps do not leave alone. -/
theorem exists_crcByte_twice_ne (b : Byte) : ∃ a, crcByte (crcByte a b) b ≠ crcByte a b := by
  by_contra hall
  push Not at hall
  have one : crcByte 1#16 b = crcByte 0#16 b ^^^ 0x0100#16 := by
    rw [show 1#16 = 0#16 ^^^ 1#16 by decide, crcByte_xor, show crcSteps 8 1#16 = 0x0100#16 by decide]
  have h := hall 1#16
  rw [one, crcByte_xor, hall 0#16] at h
  exact absurd ((BitVec.xor_right_inj _).1 h) (by decide)

/-- Settles O20: CRC_READ and FRAME_READ_MEM leave `acc` alone, CRC_INIT sets it to a constant, and
`exists_crcByte_twice_ne`. -/
theorem repeatedCommands : Obligations.RepeatedCommands := by
  refine ⟨fun s => ⟨_, _, bigEndian s.acc, rfl, rfl, rfl, rfl, rfl, rfl⟩,
    fun tag sb nb s => ⟨_, _, frameBytes tag sb nb, rfl, rfl, rfl, rfl, rfl, rfl⟩, ?_, fun b => ?_⟩
  · rintro s t ⟨⟩
    rfl
  · obtain ⟨a, ha⟩ := exists_crcByte_twice_ne b
    exact ⟨State.reset.setAcc a, _, _, rfl, rfl, ha⟩

/-! ## Presenting a word -/

/-- With `rst` low and no reset pulse unfinished, a port breaks a rule only by changing the word on offer. -/
theorem State.portProblem_eq_offerProblem {s : State} {pins : Pins} (hrst : pins.rst = false)
    (hheld : s.rstHeld = 0) : s.portProblem pins = s.offerProblem pins := by
  simp [State.portProblem, hrst, hheld]

/-- The word on offer, or any word when none is, may be presented. -/
theorem State.offerProblem_presenting {s : State} {w : Word48} (h : s.offered = none ∨ s.offered = some w) :
    s.offerProblem (Pins.presenting w) = none := by
  rcases h with h | h <;> simp [State.offerProblem, Pins.presenting, h]

/-- Presenting a word within the ports' rules: the idle core accepts it, another makes an edge. -/
theorem presentWord_eq {s : State} {w : Word48} (hfaulted : s.faulted = false) (hheld : s.rstHeld = 0)
    (hoffered : s.offered = none ∨ s.offered = some w) (m : HostMove) (run : Instr → State → StepResult) :
    presentWord w m s run = if s.idle then acceptWord w s run
      else .next ((s.clock (Pins.presenting w) Pace.reference).setHost (m :: s.host)) := by
  have hports : s.portProblem (Pins.presenting w) = none := by
    rw [State.portProblem_eq_offerProblem rfl hheld, State.offerProblem_presenting hoffered]
  simp [presentWord, hfaulted, hports]

/-- A step is the host's next move, taken from its list. -/
theorem step_of_host {s : State} {m : HostMove} {rest : List HostMove} (h : s.host = m :: rest) :
    step s = runMove m (s.setHost rest) := by
  simp [step, nextMove, h]

/-- Settles O6: the waiting core accepts the word. -/
theorem stepRunsTheDecodedCommand : Obligations.StepRunsTheDecodedCommand := by
  rintro s w rest i ⟨hidle, hheld, hoffered, hfaulted⟩ hhost hdec
  rw [step_of_host hhost, runMove,
    presentWord_eq (s := s.setHost rest) hfaulted hheld (.inl hoffered), State.setHost_idle, if_pos hidle]
  simp [acceptWord, hdec]

/-! ## The command port at an edge -/

@[simp] theorem State.pinsOut_cmdReady (s : State) : (s.pinsOut false).cmdReady = s.idle := by
  simp [State.pinsOut, State.cmdReady]

/-- An edge of the idle core with `rst` low. -/
theorem State.clock_of_idle {s : State} {pins : Pins} (hrst : pins.rst = false) (hidle : s.idle = true) (pace : Pace) :
    s.clock pins pace = s.acceptEdge pins pace := by
  simp [State.clock, hrst, hidle]

/-- An edge of a core at work with `rst` low. -/
theorem State.clock_of_not_idle {s : State} {pins : Pins} (hrst : pins.rst = false) (hidle : s.idle = false)
    (pace : Pace) : s.clock pins pace =
      { s.advance pins.outReady pace with offered := pins.offer, rstHeld := 0 } := by
  simp [State.clock, hrst, hidle]

/-- An edge at which a command is accepted (20_memory R42). -/
theorem State.clock_of_accepted {s : State} {pins : Pins} {i : Instr} (hrst : pins.rst = false)
    (hidle : s.idle = true) (hvalid : pins.cmdValid = true) (hdec : decode pins.cmdWord = .command i) (pace : Pace) :
    s.clock pins pace = (s.start pins.cmdWord i).present pace.emit := by
  simp [State.clock_of_idle hrst hidle, State.acceptEdge, hvalid, hdec]

@[simp] theorem State.start_latched (s : State) (w : Word48) (i : Instr) : (s.start w i).latched = w := by
  have hlatch : (s.start w i).latched = (s.latch w).latched := by cases i <;> rfl
  rw [hlatch, State.latched_latch]

@[simp] theorem State.start_offered (s : State) (w : Word48) (i : Instr) : (s.start w i).offered = none := by
  cases i <;> rfl

@[simp] theorem State.present_latched (s : State) (emit : Bool) : (s.present emit).latched = s.latched := by
  simp [State.latched]

@[simp] theorem State.advance_latched (s : State) (outReady : Bool) (pace : Pace) :
    (s.advance outReady pace).latched = s.latched := by
  simp [State.latched]

/-- While the core is not idle an edge accepts nothing: the latched word stays (20_memory R43). -/
theorem State.clock_latched {s : State} {pins : Pins} (hrst : pins.rst = false) (hidle : s.idle = false)
    (pace : Pace) : (s.clock pins pace).latched = s.latched := by
  rw [State.clock_of_not_idle hrst hidle]
  exact s.advance_latched pins.outReady pace

/-- While the core is not idle the command in progress stays the one it was. -/
theorem State.clock_current {s : State} {pins : Pins} (hrst : pins.rst = false) (hidle : s.idle = false)
    (pace : Pace) : (s.clock pins pace).current = s.current := by
  simp only [State.current, State.clock_latched hrst hidle]

/-- An edge of a core at work brings no command into progress. -/
theorem State.advance_busy {s : State} (hbusy : s.busy = false) (outReady : Bool) (pace : Pace) :
    (s.advance outReady pace).busy = false := by
  rw [State.advance_eq]
  rcases State.retire_cases (((s.takeByte outReady).engine pace.bit).present pace.emit) pace.bit with
    ⟨hr, -⟩ | ⟨hr, -⟩ <;> simp [hr, hbusy]

/-- Settles O36, from `State.clock_latched` and `State.advance_busy`. -/
theorem readyExactlyWhenIdle : Obligations.ReadyExactlyWhenIdle := by
  refine ⟨fun s rst => by simp [State.pinsOut, State.cmdReady, State.idle_iff], fun s pins pace hrst hready => ?_⟩
  have hidle : s.idle = false := by simpa using hready
  refine ⟨State.clock_latched hrst hidle pace, State.clock_current hrst hidle pace, fun hbusy => ?_⟩
  rw [State.clock_of_not_idle hrst hidle]
  exact State.advance_busy hbusy pins.outReady pace

/-- Settles O37: the accepting edge starts the command, an edge of a core at work keeps the offer, and a step in which
the word on offer is not presented is refused. -/
theorem acceptanceLatchesTheWord : Obligations.AcceptanceLatchesTheWord := by
  refine ⟨fun s pins pace i hrst hvalid hready hdec => ?_, fun s pins pace hrst hvalid hready => ?_,
    fun s pins pace w rest hhost hrst hfaulted hheld hoffered hchanged => ?_⟩
  · rw [State.clock_of_accepted hrst (by simpa using hready) hvalid hdec]
    simp [State.start_current s hdec]
  · rw [State.clock_of_not_idle hrst (by simpa using hready)]
    simp [Pins.offer, hvalid]
  · have hproblem : (s.setHost rest).portProblem pins = some .unstableCommandWord := by
      rw [State.portProblem_eq_offerProblem hrst (by simpa using hheld)]
      rcases hchanged with h | h <;> simp [State.offerProblem, hoffered, h]
    simp [step_of_host hhost, runMove, edgeStep, hfaulted, hproblem]

/-- Settles O44: both moves present the word, and the core is not idle. -/
theorem busyCoreHoldsTheHost : Obligations.BusyCoreHoldsTheHost := by
  intro s w move rest hmove hhost hidle hfaulted hheld hoffered
  have hrun : ∃ run, runMove move (s.setHost rest) = presentWord w move (s.setHost rest) run := by
    rcases hmove with rfl | ⟨taken, edges, rfl⟩
    · exact ⟨_, rfl⟩
    · exact ⟨_, rfl⟩
  obtain ⟨run, hrun⟩ := hrun
  refine ⟨?_, ?_, ?_, ?_⟩
  · rw [step_of_host hhost, hrun, presentWord_eq (s := s.setHost rest) hfaulted hheld hoffered]
    simp [hidle, hhost]
  · exact State.clock_latched (s := s.setHost rest) rfl hidle Pace.reference
  · exact State.clock_current (s := s.setHost rest) rfl hidle Pace.reference
  · rw [State.clock_of_not_idle (s := s.setHost rest) rfl hidle]
    rfl

end Sys2Proof.Machine

/-! # The output stream: what is taken, what is held, and the presented byte's place in the command's output -/

namespace Sys2Proof.Machine

/-! ## The output stream only grows -/

/-- A byte can be taken while `rst` is low and a pending byte is presented (20_memory R44). -/
theorem State.outValid_iff (s : State) : s.outValid false = true ↔ s.shown = true ∧ s.outq ≠ [] := by
  simp [State.outValid]

/-- The bytes that the host takes at an edge with `rst` low: the presented one, when it is ready (20_memory R44). -/
def State.takenBytes (s : State) (outReady : Bool) : List Byte :=
  if s.outValid false = true ∧ outReady = true then s.outq.take 1 else []

/-- A byte taken joins the output stream (20_memory R45). -/
theorem State.takeByte_out (s : State) (outReady : Bool) :
    (s.takeByte outReady).out = s.out ++ s.takenBytes outReady := by
  rcases s.takeByte_cases outReady with ⟨ht, hnone⟩ | ⟨b, rest, hq, hready, hshown, ht⟩ <;> rw [ht]
  · rcases hnone with h | h | h <;> simp [State.takenBytes, State.outValid, h]
  · simp [State.takenBytes, State.outValid_iff, hq, hready, hshown]

@[simp] theorem State.engine_out (s : State) (stepped : Bool) : (s.engine stepped).out = s.out := by
  rcases s.engine_cases stepped with ⟨h, -⟩ | h <;> simp [h]

@[simp] theorem State.acceptEdge_out (s : State) (pins : Pins) (pace : Pace) :
    (s.acceptEdge pins pace).out = s.out := by
  rcases s.acceptEdge_cases pins pace with ⟨i, -, -, ha⟩ | ⟨-, ha⟩ <;> simp [ha]

/-- An edge with `rst` low adds to the output stream the byte taken at it. -/
theorem State.clock_out {pins : Pins} (hrst : pins.rst = false) (s : State) (pace : Pace) :
    (s.clock pins pace).out = s.out ++ s.takenBytes pins.outReady := by
  cases hidle : s.idle with
  | true =>
    obtain ⟨-, hq⟩ := s.idle_iff.1 hidle
    simp [State.clock_of_idle hrst hidle, State.takenBytes, hq]
  | false =>
    rw [State.clock_of_not_idle hrst hidle]
    simp [State.advance_eq, State.takeByte_out]

/-- No edge removes or changes a byte of the output stream, reset included (70_reset R154). -/
theorem State.clock_out_prefix (s : State) (pins : Pins) (pace : Pace) : s.out <+: (s.clock pins pace).out := by
  cases hrst : pins.rst with
  | true => simp [State.clock, hrst]
  | false => exact ⟨_, (State.clock_out hrst s pace).symm⟩

/-- Presenting a word keeps the output stream if running an accepted command does. -/
theorem presentWord_out_prefix {s t : State} {w : Word48} {m : HostMove} {run : Instr → State → StepResult}
    (hrun : ∀ i, run i (s.latch w) = .next t → s.out <+: t.out)
    (hpresent : presentWord w m s run = .next t) : s.out <+: t.out := by
  obtain ⟨-, -, ⟨-, haccept⟩ | ⟨-, rfl⟩⟩ := presentWord_next hpresent
  · obtain ⟨i, -, hi⟩ := acceptWord_next haccept
    exact hrun i hi
  · exact s.clock_out_prefix _ _

/-- Settles O28, by the cases of a step: a command and one cut short add bytes of the command's output, an edge adds
the byte taken at it, a reset adds none. -/
theorem outputStreamOnlyGrows : Obligations.OutputStreamOnlyGrows := by
  intro s t hstep
  rcases step_next hstep with ⟨-, rfl⟩ | ⟨w, rest, -, hpresent⟩ | ⟨edges, rest, -, -, rfl⟩ |
    ⟨w, taken, edges, rest, -, hpresent⟩ | ⟨pins, pace, rest, -, hedge⟩
  · exact List.prefix_rfl
  · refine presentWord_out_prefix (s := s.setHost rest) (fun i hexec => ?_) hpresent
    obtain ⟨hout, -⟩ := exec_next hexec
    exact ⟨_, hout.symm⟩
  · exact List.prefix_rfl
  · refine presentWord_out_prefix (s := s.setHost rest) (fun i hcut => ?_) hpresent
    obtain ⟨-, rfl⟩ := finishReset_next hcut
    exact List.prefix_append _ _
  · obtain ⟨-, -, -, rfl⟩ := edgeStep_next hedge
    exact (s.setHost rest).clock_out_prefix pins pace

/-! ## What the engine hands to the output queue -/

theorem framePushed_prefix (tag : Byte) (sb nb : Word16) (s : State) :
    framePushed tag sb nb s <+: frameBytes tag sb nb := by
  unfold framePushed
  split
  · exact (List.take_prefix _ _).trans (List.prefix_append _ _)
  · exact List.prefix_rfl

/-- The bytes handed to the output queue are the first ones of the command's output (20_memory R45). -/
theorem commandPushed_prefix (i : Instr) (s : State) : commandPushed i s <+: commandOutput i s := by
  cases i with
  | frameReadMem tag sb nb => exact framePushed_prefix tag sb nb s
  | _ => exact List.prefix_rfl

/-- A bit step of a frame byte hands the queue the byte at `fidx`, if it has not been handed it yet. -/
theorem State.foldFrame_outq {s : State} (tag : Byte) (sb nb : Word16) (hidx : s.fidx.toNat < 8) :
    ∃ bytes, (s.foldFrame tag sb nb).outq = s.outq ++ bytes ∧
      (frameMessage tag sb nb).take (s.fidx.toNat + 1) = framePushed tag sb nb s ++ bytes := by
  by_cases hb : s.bitcnt = 0#4
  · refine ⟨[(frameMessage tag sb nb).getD s.fidx.toNat 0#8], if_pos (s.firstBit_iff.2 hb), ?_⟩
    simp only [framePushed, hidx, hb, if_true, Nat.add_zero]
    exact frameMessage_take_succ tag sb nb hidx
  · refine ⟨[], ?_, by simp [framePushed, hidx, hb]⟩
    rw [List.append_nil]
    exact if_neg (mt s.firstBit_iff.1 hb)

/-- What a bit step of a frame adds to the queue is what it adds to the bytes handed over. -/
theorem State.Engaged.workFrame_outq {s : State} {tag : Byte} {sb nb : Word16}
    (h : s.Engaged (.frameReadMem tag sb nb)) :
    ∃ bytes, (s.workFrame tag sb nb).outq = s.outq ++ bytes ∧
      framePushed tag sb nb (s.workFrame tag sb nb) = framePushed tag sb nb s ++ bytes := by
  obtain ⟨-, hfacc, -⟩ := h.workFrame
  rcases s.workFrame_cases tag sb nb with
    ⟨-, hw⟩ | ⟨hidx, hbit, hw⟩ | ⟨hidx, -, hw⟩ | ⟨hidx, -, hw⟩ <;> rw [hw] at hfacc ⊢
  · exact ⟨[], by simp⟩
  · -- within a byte
    obtain ⟨bytes, hq, hpushed⟩ := State.foldFrame_outq tag sb nb hidx
    have hne : s.bitcnt + 1#4 ≠ 0#4 := by bv_omega
    exact ⟨bytes, hq, by simpa [framePushed, State.foldFrame, hidx, hne] using hpushed⟩
  · -- the last step of one of the bytes 0 to 6
    obtain ⟨bytes, hq, hpushed⟩ := State.foldFrame_outq tag sb nb (show s.fidx.toNat < 8 by omega)
    have hcount : (s.fidx + 1#4).toNat = s.fidx.toNat + 1 := by bv_omega
    have hlt : s.fidx.toNat + 1 < 8 := by omega
    refine ⟨bytes, hq, ?_⟩
    rw [← hpushed]
    simp [framePushed, hcount, hlt]
  · -- the last step of byte 7: the checksum follows
    obtain ⟨bytes, hq, hpushed⟩ := State.foldFrame_outq tag sb nb (show s.fidx.toNat < 8 by omega)
    have hall : (frameMessage tag sb nb).take (s.fidx.toNat + 1) = frameMessage tag sb nb := by
      rw [hidx]
      rfl
    have hf : (s.foldFrame tag sb nb).facc = frameCrc tag sb nb := hfacc
    refine ⟨bytes ++ bigEndian (frameCrc tag sb nb), by simp [hq, hf], ?_⟩
    rw [← List.append_assoc, ← hpushed, hall]
    rfl

/-- What the engine adds to the queue is what it adds to the bytes handed over. -/
theorem State.Engaged.engine_outq {s : State} {i : Instr} (h : s.Engaged i) (hcur : s.current = some i)
    (stepped : Bool) : ∃ bytes, (s.engine stepped).outq = s.outq ++ bytes ∧
      commandPushed i (s.engine stepped) = commandPushed i s ++ bytes := by
  rcases s.engine_cases stepped with ⟨he, -⟩ | he <;> rw [he]
  · rw [s.work_eq hcur]
    cases i with
    | crcInit => exact ⟨[], by simp [commandPushed]⟩
    | crcUpdate b => exact ⟨[], by simp [commandPushed]⟩
    | crcRead => exact ⟨[], by simp⟩
    | frameReadMem tag sb nb => exact h.workFrame_outq
  · exact ⟨[], by simp⟩

@[simp] theorem commandPushed_present (i : Instr) (s : State) (emit : Bool) :
    commandPushed i (s.present emit) = commandPushed i s := by
  cases i <;> simp [commandPushed, framePushed]

/-! ## The presented byte -/

/-- The length of a command's output does not depend on the state (20_memory R45). -/
theorem commandOutput_length_eq (i : Instr) (s t : State) :
    (commandOutput i s).length = (commandOutput i t).length := by
  cases i <;> simp [commandOutput]

/-- The pending bytes are the last ones handed to the queue. -/
theorem State.Engaged.outq_suffix {s : State} {i : Instr} (h : s.Engaged i) : s.outq <:+ commandPushed i s := by
  cases i with
  | crcInit =>
    obtain ⟨hq, -⟩ := h
    simp [hq]
  | crcUpdate b =>
    obtain ⟨hq, -⟩ := h
    simp [hq]
  | crcRead =>
    obtain ⟨-, -, hpending, -⟩ := h
    exact hpending
  | frameReadMem tag sb nb =>
    obtain ⟨-, -, hpending, -⟩ := h
    exact hpending

/-- The bytes taken and the bytes pending are the bytes handed to the queue. -/
theorem State.Engaged.takenOf_add_length {s : State} {i : Instr} (h : s.Engaged i) :
    s.takenOf i + s.outq.length = (commandPushed i s).length :=
  Nat.sub_add_cancel h.outq_suffix.length_le

/-- The output is complete when as many bytes have been handed to the queue as the output has. -/
theorem State.Engaged.outputComplete_iff {s : State} {i : Instr} (h : s.Engaged i) (hcur : s.current = some i) :
    s.outputComplete = true ↔ (commandPushed i s).length = (commandOutput i s).length := by
  cases i with
  | crcInit => simp [State.outputComplete, hcur, commandPushed, commandOutput]
  | crcUpdate b => simp [State.outputComplete, hcur, commandPushed, commandOutput]
  | crcRead => simp [State.outputComplete, hcur, commandPushed, commandOutput]
  | frameReadMem tag sb nb =>
    obtain ⟨⟨hidx, -⟩ | ⟨hidx, -⟩, -⟩ := h
    · have hlen : (framePushed tag sb nb s).length ≤ 8 := by simp [framePushed, hidx]
      simp only [State.outputComplete, hcur, commandPushed, commandOutput, frameBytes_length, decide_eq_true_eq]
      omega
    · simp [State.outputComplete, hcur, commandPushed, commandOutput, framePushed, hidx]

/-- The first pending byte is the next byte of the command's output. -/
theorem State.Engaged.head?_outq {s : State} {i : Instr} (h : s.Engaged i) (hq : s.outq ≠ []) :
    s.outq.head? = (commandOutput i s)[s.takenOf i]? := by
  obtain ⟨taken, htaken⟩ := h.outq_suffix
  obtain ⟨later, hlater⟩ := commandPushed_prefix i s
  obtain ⟨b, rest, hb⟩ := List.exists_cons_of_ne_nil hq
  have hcount : s.takenOf i = taken.length := by
    simp [State.takenOf, ← htaken]
  rw [hcount, ← hlater, ← htaken, hb]
  simp

/-- The first pending byte is the last of the command's output exactly when the bytes taken and it make up the
whole. -/
theorem State.Engaged.outLast_eq {s : State} {i : Instr} (h : s.Engaged i) (hcur : s.current = some i)
    (hq : s.outq ≠ []) : s.outLast = decide (s.takenOf i + 1 = (commandOutput i s).length) := by
  have hcount := h.takenOf_add_length
  have hle := (commandPushed_prefix i s).length_le
  have hpos := List.length_pos_of_ne_nil hq
  rw [Bool.eq_iff_iff, State.outLast, Bool.and_eq_true, h.outputComplete_iff hcur, beq_iff_eq, decide_eq_true_eq]
  omega

/-- A core with a byte pending has a command in progress. -/
theorem State.Inv.engaged_of_pending {s : State} (h : s.Inv) (hq : s.outq ≠ []) :
    s.busy = true ∧ ∃ i, s.current = some i ∧ s.Engaged i := by
  have hbusy : s.busy = true := by
    by_contra hb
    obtain ⟨hempty, -⟩ := h.idleEmpty (by simpa using hb)
    exact hq hempty
  obtain ⟨i, hcur, hi⟩ := h.busyLegal hbusy
  exact ⟨hbusy, i, hcur, hi.engaged⟩

/-- The output ports while a byte is presented. -/
theorem State.pinsOut_of_outValid {s : State} (h : s.outValid false = true) :
    s.pinsOut false = ⟨false, true, s.outq.head?, some s.outLast⟩ := by
  obtain ⟨-, hq⟩ := s.outValid_iff.1 h
  have hidle : s.idle = false := by simp [State.idle, hq]
  simp [State.pinsOut, h, State.cmdReady, hidle]

/-- A host that is not ready takes nothing. -/
@[simp] theorem State.takeByte_not_ready (s : State) : s.takeByte false = s := by
  rcases s.takeByte_cases false with ⟨ht, -⟩ | ⟨_, _, -, hready, -⟩
  · exact ht
  · simp at hready

/-- At an edge at which the host takes nothing, bytes join the queue only behind those already pending. -/
theorem State.Engaged.advance_outq {s : State} {i : Instr} (h : s.Engaged i) (hcur : s.current = some i)
    (hq : s.outq ≠ []) (pace : Pace) :
    ∃ bytes, (s.advance false pace).outq = s.outq ++ bytes ∧
      commandPushed i (s.advance false pace) = commandPushed i s ++ bytes := by
  obtain ⟨bytes, hqueue, hpushed⟩ := h.engine_outq hcur pace.bit
  refine ⟨bytes, by simp [State.advance_eq, hqueue], ?_⟩
  rw [State.advance_eq, State.takeByte_not_ready]
  rcases State.retire_cases ((s.engine pace.bit).present pace.emit) pace.bit with ⟨hr, -⟩ | ⟨-, -, hempty⟩
  · rw [hr, commandPushed_present, hpushed]
  · simp [hqueue, hq] at hempty

theorem State.advance_shown {s : State} (hshown : s.shown = true) (pace : Pace) :
    (s.advance false pace).shown = true := by
  rw [State.advance_eq, State.takeByte_not_ready, State.retire_shown]
  rcases (s.engine pace.bit).present_cases pace.emit with ⟨hp, -⟩ | ⟨hp, -⟩ <;> simp [hp, hshown]

/-- While the host takes nothing the core holds its output ports (20_memory R44). -/
theorem State.Inv.pinsOut_clock {s : State} (h : s.Inv) {pins : Pins} (hrst : pins.rst = false)
    (hready : pins.outReady = false) (hvalid : s.outValid false = true) (pace : Pace) :
    (s.clock pins pace).pinsOut false = s.pinsOut false := by
  obtain ⟨hshown, hq⟩ := s.outValid_iff.1 hvalid
  obtain ⟨hbusy, i, hcur, hi⟩ := h.engaged_of_pending hq
  obtain ⟨bytes, hqueue, hpushed⟩ := hi.advance_outq hcur hq pace
  have hinv := h.advance hbusy false pace
  have hidle : s.idle = false := by simp [State.idle, hbusy]
  have hclock : (s.clock pins pace).pinsOut false = (s.advance false pace).pinsOut false := by
    rw [State.clock_of_not_idle hrst hidle, hready]
    rfl
  have hq' : (s.advance false pace).outq ≠ [] := by simp [hqueue, hq]
  have hvalid' := (State.outValid_iff _).2 ⟨State.advance_shown hshown pace, hq'⟩
  obtain ⟨-, j, hcur', hi'⟩ := hinv.engaged_of_pending hq'
  obtain rfl : i = j := by simpa [hcur] using hcur'
  have htaken : (s.advance false pace).takenOf i = s.takenOf i := by
    simp [State.takenOf, hqueue, hpushed, Nat.add_sub_add_right]
  rw [hclock, State.pinsOut_of_outValid hvalid', State.pinsOut_of_outValid hvalid, hi'.outLast_eq hcur' hq',
    hi.outLast_eq hcur hq, htaken, commandOutput_length_eq i _ s, hqueue, List.head?_append_of_ne_nil _ hq]

/-- The core holds its output ports for any number of edges at which the host takes nothing. -/
theorem State.Inv.pinsOut_clockQuiet {s : State} (h : s.Inv) (hvalid : s.outValid false = true) (paces : List Pace) :
    (s.clockQuiet (paces.map (fun p => (false, p)))).pinsOut false = s.pinsOut false := by
  induction paces generalizing s with
  | nil => rfl
  | cons p paces ih =>
    have hheld := h.pinsOut_clock (pins := Pins.quiet false) rfl rfl hvalid p
    have hvalid' : (s.clock (Pins.quiet false) p).outValid false = true :=
      (congrArg PinsOut.outValid hheld).trans hvalid
    exact (ih (h.clock _ p) hvalid').trans hheld

/-- Settles O38, from `State.clock_out`, `State.Inv.pinsOut_clock` and the presented byte's place in the output. -/
theorem presentedByteIsHeld : Obligations.PresentedByteIsHeld := by
  refine ⟨fun s pins pace hrst => State.clock_out hrst s pace,
    fun s pins pace h hrst hready hvalid => h.pinsOut_clock hrst hready hvalid pace,
    fun s paces h hvalid => h.pinsOut_clockQuiet hvalid paces, fun s i h hcur hvalid => ?_,
    fun s hq => by simp [State.pinsOut, State.outValid, hq]⟩
  obtain ⟨-, hq⟩ := s.outValid_iff.1 hvalid
  obtain ⟨-, j, hcur', hi⟩ := h.engaged_of_pending hq
  obtain rfl : i = j := by simpa [hcur] using hcur'
  rw [State.pinsOut_of_outValid hvalid]
  exact ⟨hi.head?_outq hq, by simpa using hq, by simp [hi.outLast_eq hcur hq]⟩

end Sys2Proof.Machine

/-! # The commands edge by edge

`State.completed` is the state that the command in progress will leave, read off the working state.  Acceptance makes
it the state that the command's meaning answers, no operation of an edge changes it, and the edge that completes the
command reaches it. -/

namespace Sys2Proof.Machine

/-! ## The state that the command in progress will leave -/

/-- The value that the command in progress will leave in `acc`: for a CRC_UPDATE, that of the bit steps still to come
(40_checksum R81). -/
def accCompleted (i : Instr) (s : State) : Word16 :=
  match i with
  | .crcInit => initValue
  | .crcUpdate b => crcSteps (8 - s.bitcnt.toNat) (if s.firstBit then s.acc ^^^ byteHigh b else s.acc)
  | .crcRead => s.acc
  | .frameReadMem _ _ _ => s.acc

/-- The value that the command in progress will leave in `facc` (41_frame R116). -/
def faccCompleted (i : Instr) (s : State) : Word16 :=
  match i with
  | .crcInit => s.facc
  | .crcUpdate _ => s.facc
  | .crcRead => s.facc
  | .frameReadMem tag sb nb => frameCrc tag sb nb

/-- The bytes of its output that the command in progress has yet to hand to the output queue. -/
def outputLeft (i : Instr) (s : State) : List Byte := (commandOutput i s).drop (commandPushed i s).length

/-- The state that the command `i` in progress will leave, the host presenting no other word. -/
def State.completed (s : State) (i : Instr) : State :=
  { s with
    acc := accCompleted i s, facc := faccCompleted i s, out := s.out ++ s.outq ++ outputLeft i s, outq := [],
    busy := false, bitcnt := 0#4, fidx := 0#4, shown := false, offered := none, rstHeld := 0 }

/-- The command in progress will leave the same state in two states that agree on what it depends on. -/
theorem State.completed_congr {s t : State} {i : Instr} (hacc : accCompleted i s = accCompleted i t)
    (hfacc : faccCompleted i s = faccCompleted i t)
    (hout : s.out ++ s.outq ++ outputLeft i s = t.out ++ t.outq ++ outputLeft i t) (hfaulted : s.faulted = t.faulted)
    (hopnd : s.opnd = t.opnd) (hopc : s.opc = t.opc) (hhost : s.host = t.host) : s.completed i = t.completed i := by
  simp only [State.completed, hacc, hfacc, hout, hfaulted, hopnd, hopc, hhost]

/-! ## Acceptance -/

/-- The command that the idle core accepts will leave the state that its meaning answers. -/
theorem State.Inv.exec_eq_completed {s : State} (h : s.Inv) (hidle : s.idle = true) (w : Word48) (i : Instr) :
    Machine.exec i (s.latch w) = .next ((s.start w i).completed i) := by
  obtain ⟨hbusy, hq⟩ := s.idle_iff.1 hidle
  obtain ⟨-, hbit, hidx⟩ := h.idleEmpty hbusy
  have hshown := h.shown_of_idle hidle
  cases i <;> simp [Machine.exec, execCrcInit, execCrcUpdate, execCrcRead, execFrameReadMem, State.completed,
    accCompleted, faccCompleted, outputLeft, commandOutput, commandPushed, framePushed, crcByte, State.start,
    State.firstBit, State.setAcc, State.setFacc, State.emit, State.latch, hbusy, hq, hbit, hidx, hshown]

/-! ## The operations of an edge -/

@[simp] theorem State.completed_takeByte (s : State) (outReady : Bool) (i : Instr) :
    (s.takeByte outReady).completed i = s.completed i := by
  rcases s.takeByte_cases outReady with ⟨ht, -⟩ | ⟨b, rest, hq, -, -, ht⟩ <;> rw [ht]
  have hleft : outputLeft i { s with out := s.out ++ [b], outq := rest, shown := false } = outputLeft i s := by
    cases i <;> rfl
  refine State.completed_congr ?_ ?_ (by simp [hq, hleft]) rfl rfl rfl rfl
  · cases i <;> rfl
  · cases i <;> rfl

@[simp] theorem State.completed_present (s : State) (emit : Bool) (i : Instr) :
    (s.present emit).completed i = s.completed i := by
  rcases s.present_cases emit with ⟨hp, -⟩ | ⟨hp, -⟩ <;> rw [hp]
  cases i <;> rfl

/-- A bit step of a CRC_UPDATE is one of those still to come. -/
theorem accCompleted_workUpdate (s : State) (b : Byte) :
    accCompleted (.crcUpdate b) (s.workUpdate b) = accCompleted (.crcUpdate b) s := by
  unfold State.workUpdate
  split
  · have hcount : (s.bitcnt + 1#4).toNat = s.bitcnt.toNat + 1 := by bv_omega
    have hne : s.bitcnt + 1#4 ≠ 0#4 := by bv_omega
    have hleft : 8 - s.bitcnt.toNat = (8 - (s.bitcnt.toNat + 1)) + 1 := by omega
    simp [accCompleted, State.firstBit, foldStep, crcSteps, hcount, hne, hleft]
  · rfl

theorem accCompleted_work {s : State} {i : Instr} (hcur : s.current = some i) :
    accCompleted i s.work = accCompleted i s := by
  rw [s.work_eq hcur]
  cases i with
  | crcInit => rfl
  | crcUpdate b => exact accCompleted_workUpdate s b
  | crcRead => rfl
  | frameReadMem tag sb nb => exact s.workFrame_acc tag sb nb

theorem faccCompleted_work {s : State} {i : Instr} (hcur : s.current = some i) :
    faccCompleted i s.work = faccCompleted i s := by
  rw [s.work_eq hcur]
  cases i with
  | crcInit => rfl
  | crcUpdate b => exact s.workUpdate_facc b
  | crcRead => rfl
  | frameReadMem tag sb nb => rfl

theorem commandOutput_work {s : State} {i : Instr} (hcur : s.current = some i) :
    commandOutput i s.work = commandOutput i s := by
  rw [s.work_eq hcur]
  cases i <;> rfl

/-- Bytes that the engine hands to the queue are those it had left to hand over. -/
theorem State.Engaged.completed_work {s : State} {i : Instr} (h : s.Engaged i) (hcur : s.current = some i)
    (hbusy : s.busy = true) : s.work.completed i = s.completed i := by
  obtain ⟨bytes, hqueue, hpushed⟩ := h.engine_outq hcur true
  rw [State.engine, hbusy, Bool.and_true, if_pos rfl] at hqueue hpushed
  have hleft : outputLeft i s = bytes ++ outputLeft i s.work := by
    obtain ⟨later, hlater⟩ := commandPushed_prefix i s.work
    rw [outputLeft, outputLeft, ← commandOutput_work hcur, ← hlater, List.drop_left, hpushed, List.append_assoc,
      List.drop_left]
  refine State.completed_congr (accCompleted_work hcur) (faccCompleted_work hcur) ?_ s.work_faulted s.work_opnd
    s.work_opc s.work_host
  rw [s.work_out, hqueue, hleft]
  simp only [List.append_assoc]

theorem State.Engaged.completed_engine {s : State} {i : Instr} (h : s.Engaged i) (hcur : s.current = some i)
    (stepped : Bool) : (s.engine stepped).completed i = s.completed i := by
  rcases s.engine_cases stepped with ⟨he, hbusy, -⟩ | he <;> rw [he]
  exact h.completed_work hcur hbusy

/-! ## The edge that completes a command -/

@[simp] theorem State.present_worked (s : State) (emit stepped : Bool) :
    (s.present emit).worked stepped = s.worked stepped := by
  simp [State.worked]

/-- When the engine is done, `acc` holds the command's result: a CRC_INIT has made its one step, and a CRC_UPDATE has no
bit step left. -/
theorem State.Engaged.acc_of_worked {s : State} {i : Instr} {stepped : Bool} (h : s.Engaged i)
    (hcur : s.current = some i) (hbusy : s.busy = true) (hworked : (s.engine stepped).worked stepped = true) :
    (s.engine stepped).acc = accCompleted i (s.engine stepped) := by
  have hcur' : (s.engine stepped).current = some i := by simpa using hcur
  cases i with
  | crcInit =>
    have hstepped : stepped = true := by simpa [State.worked, hcur'] using hworked
    simp [State.engine, hbusy, hstepped, s.work_eq hcur, accCompleted]
  | crcUpdate b =>
    obtain ⟨-, hle, -⟩ := h.engine hcur stepped
    have hge : 8 ≤ (s.engine stepped).bitcnt.toNat := by simpa [State.worked, hcur'] using hworked
    have hbit : (s.engine stepped).bitcnt = 8#4 := by bv_omega
    simp [accCompleted, State.firstBit, hbit]
  | crcRead => rfl
  | frameReadMem tag sb nb => rfl

/-- When the engine is done, `facc` holds what the command leaves there. -/
theorem State.Engaged.facc_of_worked {s : State} {i : Instr} {stepped : Bool} (h : s.Engaged i)
    (hcur : s.current = some i) (hworked : s.worked stepped = true) : s.facc = faccCompleted i s := by
  cases i with
  | frameReadMem tag sb nb =>
    obtain ⟨-, hfacc, -⟩ := h
    have hidx : 10 ≤ s.fidx.toNat := by simpa [State.worked, hcur] using hworked
    rw [hfacc, frameAccumulated, if_neg (by omega)]
    rfl
  | _ => rfl

/-- When the engine is done, it has handed over all of the command's output. -/
theorem State.Engaged.outputLeft_of_worked {s : State} {i : Instr} {stepped : Bool} (h : s.Engaged i)
    (hcur : s.current = some i) (hworked : s.worked stepped = true) : outputLeft i s = [] := by
  have hcomplete : s.outputComplete = true := by
    cases i with
    | frameReadMem tag sb nb => simpa [State.outputComplete, State.worked, hcur] using hworked
    | _ => simp [State.outputComplete, hcur]
  rw [outputLeft, (h.outputComplete_iff hcur).1 hcomplete, List.drop_length]

/-- An edge of a core at work leaves the command in progress, or reaches the state that it leaves. -/
theorem State.Inv.advance_completed {s : State} {i : Instr} (h : s.Inv) (hbusy : s.busy = true)
    (hcur : s.current = some i) (outReady : Bool) (pace : Pace) :
    ((s.advance outReady pace).busy = true ∧ (s.advance outReady pace).completed i = s.completed i) ∨
      { s.advance outReady pace with offered := none, rstHeld := 0 } = s.completed i := by
  obtain ⟨j, hcurj, hj⟩ := h.busyLegal hbusy
  obtain rfl : i = j := by simpa [hcur] using hcurj
  have htaken := hj.engaged.takeByte outReady
  have hcur' : (s.takeByte outReady).current = some i := by simpa using hcur
  have hengine := htaken.engine hcur' pace.bit
  have hcompleted : (((s.takeByte outReady).engine pace.bit).present pace.emit).completed i = s.completed i := by
    rw [State.completed_present, htaken.completed_engine hcur', State.completed_takeByte]
  have hinv := h.advance hbusy outReady pace
  rw [State.advance_eq] at hinv ⊢
  rcases State.retire_cases (((s.takeByte outReady).engine pace.bit).present pace.emit) pace.bit with
    ⟨hr, -⟩ | ⟨hr, hworked, hq⟩ <;> rw [hr] at hinv ⊢
  · exact .inl ⟨by simpa using hbusy, hcompleted⟩
  · right
    rw [State.present_worked] at hworked
    have hshown := Bool.eq_false_iff.2 fun hshown => hinv.shownPending hshown hq
    have hacc := htaken.acc_of_worked hcur' (by simpa using hbusy) hworked
    have hfacc := hengine.facc_of_worked (by simpa using hcur') hworked
    have hleft := hengine.outputLeft_of_worked (by simpa using hcur') hworked
    rw [← hcompleted, State.completed_present]
    simp only [State.present_outq] at hq
    simp only at hshown
    simp [State.completed, ← hacc, ← hfacc, hleft, hq, hshown]

/-! ## Quiet edges to the end of a command -/

/-- The core that has completed its command stands still while no word is presented. -/
theorem State.completed_clockQuiet (s : State) (i : Instr) (edges : List (Bool × Pace)) :
    (s.completed i).clockQuiet edges = s.completed i := by
  induction edges with
  | nil => rfl
  | cons e edges ih => exact ih

/-- After any quiet edges the command is still in progress and will leave the same state, or it has left that state. -/
theorem State.Inv.clockQuiet_completed {s : State} {i : Instr} (h : s.Inv) (hbusy : s.busy = true)
    (hcur : s.current = some i) (edges : List (Bool × Pace)) :
    ((s.clockQuiet edges).busy = true ∧ (s.clockQuiet edges).completed i = s.completed i) ∨
      s.clockQuiet edges = s.completed i := by
  induction edges generalizing s with
  | nil => exact .inl ⟨hbusy, rfl⟩
  | cons e edges ih =>
    obtain ⟨outReady, pace⟩ := e
    have hidle : s.idle = false := by simp [State.idle, hbusy]
    have hclock : s.clock (Pins.quiet outReady) pace =
        { s.advance outReady pace with offered := none, rstHeld := 0 } := State.clock_of_not_idle rfl hidle pace
    rw [State.clockQuiet]
    rcases h.advance_completed hbusy hcur outReady pace with ⟨hbusy', hcompleted⟩ | hdone
    · have hsame : (s.clock (Pins.quiet outReady) pace).completed i = s.completed i := by
        rw [← hcompleted, hclock]
        exact State.completed_congr (by cases i <;> rfl) (by cases i <;> rfl) (by cases i <;> rfl) rfl rfl rfl rfl
      rw [← hsame]
      exact ih (h.clock _ _) (by rw [hclock]; exact hbusy')
        ((State.clock_current (pins := Pins.quiet outReady) rfl hidle pace).trans hcur)
    · right
      rw [hclock, hdone, State.completed_clockQuiet]

/-- Settles O39: the accepted command will leave the state that its meaning answers, and the core is idle again only in
that state. -/
theorem edgesRefineCommands : Obligations.EdgesRefineCommands := by
  rintro s w i outReady pace edges h ⟨hidle, -⟩ hdec t ht
  have haccept : t = ((s.start w i).present pace.emit).clockQuiet edges := by
    rw [← State.clock_of_accepted (pins := ⟨false, true, w, outReady⟩) rfl hidle rfl hdec pace]
  have hquiet := ((h.start hidle hdec).present pace.emit).clockQuiet_completed (i := i) (by simp)
    (by simpa using s.start_current hdec) edges
  rw [← haccept, State.completed_present] at hquiet
  rw [h.exec_eq_completed hidle w i]
  rcases hquiet with ⟨hbusy, -⟩ | hdone
  · obtain ⟨hnot, -⟩ := t.idle_iff.1 ht
    exact absurd (hbusy.symm.trans hnot) (by decide)
  · rw [hdone]

end Sys2Proof.Machine

/-! # Command words: decoding, encoding and the opcode map

A word is its four fields put together (`eq_packWord_iff`), so decoding inverts encoding; a row of the opcode map selects
exactly the words of its commands (`selects_iff_of_mem_opcodeMap`). -/

namespace Sys2Proof

open Machine

/-! ## The fields of a word -/

theorem lowBits_eq_append (w : Word48) : lowBits w = sbField w ++ nbField w :=
  (BitVec.extractLsb'_append_extractLsb'_eq_extractLsb' (show 16 = 0 + 16 from rfl)).symm

theorem operandBits_eq_append (w : Word48) : operandBits w = bField w ++ lowBits w :=
  (BitVec.extractLsb'_append_extractLsb'_eq_extractLsb' (show 32 = 0 + 32 from rfl)).symm

/-- A word is its four fields put together (30_encoding R60). -/
theorem packWord_fields (w : Word48) : packWord (opcField w) (bField w) (sbField w) (nbField w) = w := by
  have hopc : opcField w ++ bField w = w.extractLsb' 32 16 :=
    BitVec.extractLsb'_append_extractLsb'_eq_extractLsb' (show 40 = 32 + 8 from rfl)
  have hsb : w.extractLsb' 32 16 ++ sbField w = w.extractLsb' 16 32 :=
    BitVec.extractLsb'_append_extractLsb'_eq_extractLsb' (show 32 = 16 + 16 from rfl)
  have hnb : w.extractLsb' 16 32 ++ nbField w = w.extractLsb' 0 48 :=
    BitVec.extractLsb'_append_extractLsb'_eq_extractLsb' (show 16 = 0 + 16 from rfl)
  rw [packWord, hopc, hsb, hnb, BitVec.extractLsb'_eq_self]

/-- A word is a packed word when its fields are the packed ones. -/
theorem eq_packWord_iff {w : Word48} {opc b : Byte} {sb nb : Word16} :
    w = packWord opc b sb nb ↔ opcField w = opc ∧ bField w = b ∧ sbField w = sb ∧ nbField w = nb := by
  constructor
  · rintro rfl
    simp
  · rintro ⟨rfl, rfl, rfl, rfl⟩
    exact (packWord_fields w).symm

/-- Two bit vectors side by side are zero only if both are. -/
theorem append_eq_zero_iff {m n : Nat} (x : BitVec m) (y : BitVec n) : x ++ y = 0#(m + n) ↔ x = 0#m ∧ y = 0#n := by
  constructor
  · intro h
    have hx := BitVec.extractLsb'_append_eq_left (a := x) (b := y)
    have hy := BitVec.extractLsb'_append_eq_right (a := x) (b := y)
    rw [h] at hx hy
    exact ⟨by simpa using hx.symm, by simpa using hy.symm⟩
  · rintro ⟨rfl, rfl⟩
    exact BitVec.zero_append_zero

/-- The part that format B requires to be zero is the last two fields (R62). -/
theorem lowBits_eq_zero_iff (w : Word48) : lowBits w = 0#32 ↔ sbField w = 0#16 ∧ nbField w = 0#16 := by
  rw [lowBits_eq_append]
  exact append_eq_zero_iff _ _

/-- The part that format Z requires to be zero is the last three fields (R62). -/
theorem operandBits_eq_zero_iff (w : Word48) :
    operandBits w = 0#40 ↔ bField w = 0#8 ∧ sbField w = 0#16 ∧ nbField w = 0#16 := by
  rw [operandBits_eq_append, ← lowBits_eq_zero_iff]
  exact append_eq_zero_iff _ _

/-- Settles O4: each field is the number's remainder between its two powers of two. -/
theorem commandWordIsItsFieldsSideBySide : Obligations.CommandWordIsItsFieldsSideBySide := by
  intro w
  simp only [opcField, bField, sbField, nbField, BitVec.extractLsb'_toNat, Nat.shiftRight_eq_div_pow]
  omega

/-! ## Decoding inverts encoding -/

/-- The word of a command decodes to that command. -/
@[simp] theorem decode_encode (i : Instr) : decode (encode i) = .command i := by
  cases i <;> simp [encode, decode, lowBits_eq_zero_iff, operandBits_eq_zero_iff]

/-- A word that decodes to a command is that command's word. -/
theorem eq_encode_of_decode {i : Instr} {w : Word48} (h : decode w = .command i) : w = encode i := by
  rcases decode_cases w with ⟨hdec, hopc, hzero⟩ | ⟨hdec, hopc, hzero⟩ | ⟨hdec, hopc, hzero⟩ | ⟨hdec, hopc⟩ | hdec
  all_goals cases hdec.symm.trans h
  · exact eq_packWord_iff.2 ⟨hopc, (operandBits_eq_zero_iff w).1 hzero⟩
  · exact eq_packWord_iff.2 ⟨hopc, rfl, (lowBits_eq_zero_iff w).1 hzero⟩
  · exact eq_packWord_iff.2 ⟨hopc, (operandBits_eq_zero_iff w).1 hzero⟩
  · exact eq_packWord_iff.2 ⟨hopc, rfl, rfl, rfl⟩

/-- Settles O1: `eq_encode_of_decode` and `decode_encode`. -/
theorem decodingInvertsEncoding : Obligations.DecodingInvertsEncoding := by
  refine fun i w => ⟨eq_encode_of_decode, ?_⟩
  rintro rfl
  exact decode_encode i

/-- Settles O5: each example is encoded, and read back by O1. -/
theorem encodingExamplesDecode : Obligations.EncodingExamplesDecode := by
  refine ⟨fun p hp => ?_, ?_⟩
  · have hencode : encode p.1 = p.2 := by
      revert p hp
      decide
    exact ⟨hencode, hencode ▸ decode_encode p.1⟩
  · simp only [List.forall_mem_cons]
    exact ⟨by decide, by decide, by decide, by decide, by decide, by simp⟩

/-! ## The opcode map -/

/-- Every command's row is in the map and selects the command's word (R64). -/
theorem opcodeRow_statement (i : Instr) : Laws.OpcodeRow.Statement i := by
  cases i with
  | crcInit => exact Laws.OpcodeRow.crcInit
  | crcUpdate b => exact Laws.OpcodeRow.crcUpdate b
  | crcRead => exact Laws.OpcodeRow.crcRead
  | frameReadMem tag sb nb => exact Laws.OpcodeRow.frameReadMem tag sb nb

/-- Selection by a row whose mask and match are packed words, field by field. -/
theorem and_packWord_eq_iff {w : Word48} {o b o' b' : Byte} {sb nb sb' nb' : Word16} :
    w &&& packWord o b sb nb = packWord o' b' sb' nb' ↔
      opcField w &&& o = o' ∧ bField w &&& b = b' ∧ sbField w &&& sb = sb' ∧ nbField w &&& nb = nb' := by
  conv_lhs => rw [← packWord_fields w, packWord_and, eq_packWord_iff]
  simp

/-- A word that a command's row selects is the word of a command with that row: the mask keeps the opcode and the
must-be-zero fields, which the match fixes. -/
theorem Instr.exists_of_row_selects {i : Instr} {w : Word48} (h : i.row.selects w = true) :
    ∃ j : Instr, j.row = i.row ∧ w = encode j := by
  rw [OpcodeRow.selects, beq_iff_eq] at h
  cases i with
  | crcInit => exact ⟨.crcInit, rfl, (BitVec.and_allOnes.symm.trans h).trans (by decide)⟩
  | crcUpdate b =>
    have hmask : (0xFF00FFFFFFFF#48) = packWord (.allOnes 8) 0#8 (.allOnes 16) (.allOnes 16) := by decide
    have hmatch : (0x020000000000#48) = packWord 0x02#8 0#8 0#16 0#16 := by decide
    simp only [Instr.row, hmask, hmatch, and_packWord_eq_iff, BitVec.and_allOnes] at h
    obtain ⟨hopc, -, hsb, hnb⟩ := h
    exact ⟨.crcUpdate (bField w), rfl, eq_packWord_iff.2 ⟨hopc, rfl, hsb, hnb⟩⟩
  | crcRead => exact ⟨.crcRead, rfl, (BitVec.and_allOnes.symm.trans h).trans (by decide)⟩
  | frameReadMem tag sb nb =>
    have hmask : (0xFF0000000000#48) = packWord (.allOnes 8) 0#8 0#16 0#16 := by decide
    have hmatch : (0x100000000000#48) = packWord 0x10#8 0#8 0#16 0#16 := by decide
    simp only [Instr.row, hmask, hmatch, and_packWord_eq_iff, BitVec.and_allOnes] at h
    obtain ⟨hopc, -⟩ := h
    exact ⟨.frameReadMem (bField w) (sbField w) (nbField w), rfl, eq_packWord_iff.2 ⟨hopc, rfl, rfl, rfl⟩⟩

/-- Every row of the map is the row of a command. -/
theorem exists_row_of_mem_opcodeMap {r : OpcodeRow} (h : r ∈ opcodeMap) : ∃ i : Instr, i.row = r := by
  simp only [opcodeMap, List.mem_cons, List.not_mem_nil, or_false] at h
  rcases h with rfl | rfl | rfl | rfl
  · exact ⟨.crcInit, rfl⟩
  · exact ⟨.crcUpdate 0#8, rfl⟩
  · exact ⟨.crcRead, rfl⟩
  · exact ⟨.frameReadMem 0#8 0#16 0#16, rfl⟩

/-- A row of the map selects exactly the words of its commands. -/
theorem selects_iff_of_mem_opcodeMap {r : OpcodeRow} (hr : r ∈ opcodeMap) (w : Word48) :
    r.selects w = true ↔ ∃ i : Instr, i.row = r ∧ decode w = .command i := by
  obtain ⟨i, rfl⟩ := exists_row_of_mem_opcodeMap hr
  constructor
  · intro h
    obtain ⟨j, hj, rfl⟩ := Instr.exists_of_row_selects h
    exact ⟨j, hj, decode_encode j⟩
  · rintro ⟨j, hj, hdec⟩
    obtain ⟨-, -, hsel⟩ := opcodeRow_statement j
    rw [eq_encode_of_decode hdec, ← hj, hsel]

/-- Every word is a command or illegal (R65). -/
theorem decode_illegal_or_command (w : Word48) : decode w = .illegal w ∨ ∃ i, decode w = .command i := by
  rcases decode_cases w with ⟨h, -⟩ | ⟨h, -⟩ | ⟨h, -⟩ | ⟨h, -⟩ | h
  · exact .inr ⟨_, h⟩
  · exact .inr ⟨_, h⟩
  · exact .inr ⟨_, h⟩
  · exact .inr ⟨_, h⟩
  · exact .inl h

/-- Settles O2: a row of the map selects exactly the words of its commands. -/
theorem decodingFollowsTheOpcodeMap : Obligations.DecodingFollowsTheOpcodeMap := by
  refine ⟨rfl, fun w r hr r' hr' h h' => ?_, fun w i hdec => ?_, fun w => ⟨fun hdec r hr => ?_, fun hnone => ?_⟩⟩
  · obtain ⟨i, rfl, hi⟩ := (selects_iff_of_mem_opcodeMap hr w).1 h
    obtain ⟨j, rfl, hj⟩ := (selects_iff_of_mem_opcodeMap hr' w).1 h'
    cases hi.symm.trans hj
    rfl
  · obtain ⟨-, hmem, hsel⟩ := opcodeRow_statement i
    exact ⟨hmem, eq_encode_of_decode hdec ▸ hsel⟩
  · by_contra hsel
    obtain ⟨i, -, hi⟩ := (selects_iff_of_mem_opcodeMap hr w).1 (Bool.eq_true_of_not_eq_false hsel)
    cases hi.symm.trans hdec
  · rcases decode_illegal_or_command w with hdec | ⟨i, hdec⟩
    · exact hdec
    · obtain ⟨-, hmem, -⟩ := opcodeRow_statement i
      exact absurd ((selects_iff_of_mem_opcodeMap hmem w).2 ⟨i, rfl, hdec⟩) (by simp [hnone _ hmem])

/-! ## Illegal words -/

/-- A word is illegal exactly when no arm of the decoder takes it. -/
theorem decode_eq_illegal_iff (w : Word48) : decode w = .illegal w ↔
    ¬ (opcField w = 0x01#8 ∧ operandBits w = 0#40) ∧ ¬ (opcField w = 0x02#8 ∧ lowBits w = 0#32) ∧
      ¬ (opcField w = 0x03#8 ∧ operandBits w = 0#40) ∧ opcField w ≠ 0x10#8 := by
  unfold decode
  split_ifs with hinit hupdate hread hframe
  · simp [hinit]
  · simp [hupdate]
  · simp [hread]
  · simp [hframe]
  · exact iff_of_true rfl ⟨hinit, hupdate, hread, hframe⟩

/-- The step on an illegal word presented to the waiting core is its fault (60_exceptions R131). -/
theorem step_of_illegal {s : State} {w : Word48} {rest : List HostMove} (hs : s.Waiting)
    (hhost : s.host = .command w :: rest) (hdec : decode w = .illegal w) : step s = .fault (.illegalCommand w) := by
  obtain ⟨hidle, hheld, hoffered, hfaulted⟩ := hs
  rw [step_of_host hhost, runMove,
    presentWord_eq (s := s.setHost rest) hfaulted hheld (.inl hoffered), State.setHost_idle, if_pos hidle]
  simp [acceptWord, hdec, raiseIllegal]

/-- Settles O3: with the opcode fixed, at most one arm of the decoder can take the word. -/
theorem illegalWordsAreExactlyThese : Obligations.IllegalWordsAreExactlyThese := by
  refine ⟨fun w => ?_, by decide +kernel, decode_illegal_or_command, fun s w rest => step_of_illegal⟩
  rw [decode_eq_illegal_iff]
  by_cases h1 : opcField w = 0x01#8
  · simp [h1]
  by_cases h2 : opcField w = 0x02#8
  · simp [h2]
  by_cases h3 : opcField w = 0x03#8
  · simp [h3]
  simp [h1, h2, h3]

end Sys2Proof

/-! # The assembler

What each kind of line with operands expands to, and the output of the pseudo-instruction's commands. -/

namespace Sys2Proof.Machine

/-! ## What a line expands to (30_encoding R68, R69) -/

theorem expandLine_crcUpdate (n : Nat) :
    expandLine (.crcUpdate n) = if n < 256 then some [.crcUpdate (BitVec.ofNat 8 n)] else none := by
  simp [expandLine, AsmLine.wellFormed, fitsByte]

theorem expandLine_frameReadmem (tag start count : Nat) :
    expandLine (.frameReadmem tag start count) =
      if tag < 256 ∧ start < 65536 ∧ count < 65536 then
        some [.frameReadMem (BitVec.ofNat 8 tag) (BitVec.ofNat 16 start) (BitVec.ofNat 16 count)]
      else none := by
  simp [expandLine, AsmLine.wellFormed, fitsByte, fitsWord16, and_assoc]

theorem expandLine_crcChecksum (ns : List Nat) :
    expandLine (.crcChecksum ns) =
      if ∀ n ∈ ns, n < 256 then some (checksumCommands (ns.map (BitVec.ofNat 8))) else none := by
  simp [expandLine, AsmLine.wellFormed, fitsByte, checksumCommands, Function.comp_def]

/-- Settles O45: a number in range is the value of the bit vector made of it. -/
theorem assemblerKeepsRanges : Obligations.AssemblerKeepsRanges := by
  refine ⟨rfl, rfl, fun n => ⟨fun hn => ?_, fun hn => ?_⟩,
    fun tag start count => ⟨fun htag hstart hcount => ?_, fun hout => ?_⟩⟩
  · exact ⟨.ofNat 8 n, Nat.mod_eq_of_lt hn, by rw [expandLine_crcUpdate, if_pos hn]⟩
  · rw [expandLine_crcUpdate, if_neg (by omega)]
  · exact ⟨.ofNat 8 tag, .ofNat 16 start, .ofNat 16 count, Nat.mod_eq_of_lt htag, Nat.mod_eq_of_lt hstart,
      Nat.mod_eq_of_lt hcount, by rw [expandLine_frameReadmem, if_pos ⟨htag, hstart, hcount⟩]⟩
  · rw [expandLine_frameReadmem, if_neg (by omega)]

/-! ## The pseudo-instruction -/

/-- The bytes of the core are the bytes of the line (R69). -/
theorem expandLine_crcChecksum_toNat (data : List Byte) :
    expandLine (.crcChecksum (data.map BitVec.toNat)) = some (checksumCommands data) := by
  have hrange : ∀ n ∈ data.map BitVec.toNat, n < 256 := by simpa using fun b _ => b.isLt
  rw [expandLine_crcChecksum, if_pos hrange]
  simp [Function.comp_def]

/-- Updates emit nothing, and the read after them emits the bytes folded into `acc`. -/
theorem outputAfter_updates_read (data : List Byte) (a : Word16) :
    outputAfter (data.map .crcUpdate ++ [.crcRead]) a = bigEndian (data.foldl crcByte a) := by
  induction data generalizing a with
  | nil => rfl
  | cons b data ih => exact ih (crcByte a b)

/-- The commands of `computeChecksum` emit the checksum whatever `acc` holds at their start (40_checksum R95). -/
theorem outputAfter_checksumCommands (data : List Byte) (a : Word16) :
    outputAfter (checksumCommands data) a = bigEndian (crc16 data) := outputAfter_updates_read data initValue

/-- Settles O46: the line expands to the commands of `computeChecksum`, which emit the checksum. -/
theorem checksumPseudoInstruction : Obligations.ChecksumPseudoInstruction := by
  refine ⟨fun data s => ?_, rfl, ?_⟩
  · obtain ⟨t, ht, -, hout⟩ := execAll_acc_out (checksumCommands data) s
    rw [outputAfter_checksumCommands] at hout
    exact ⟨_, t, expandLine_crcChecksum_toNat data, rfl, ht, hout⟩
  · rintro ns ⟨n, hn, hbig⟩
    rw [expandLine_crcChecksum, if_neg fun hall => Nat.not_lt.2 hbig (hall n hn)]

/-! ## Text -/

/-- Settles O47, by running the assembler on the lines. -/
theorem assemblyTextExamples : Obligations.AssemblyTextExamples := by
  constructor
  · decide
  · decide

end Sys2Proof.Machine

/-! # The checksum

The bit step is linear over exclusive or and loses nothing, and while the bits shifted out are zero it is a plain shift
(`crcSteps_zext16`).  So two byte updates are sixteen bit steps on the accumulator with the two bytes folded in as one
word (`crcByte_crcByte`), which gives the residue and the reach of two bytes at once. -/

namespace Sys2Proof.Machine

/-! ## The bit step -/

/-- Bit 15 as the test on numbers (40_checksum R80). -/
theorem getLsbD_fifteen (a : Word16) : a.getLsbD 15 = decide (0x8000 ≤ a.toNat) := a.msb_eq_decide

theorem shl1_toNat (a : Word16) : (shl1 a).toNat = 2 * a.toNat % 0x10000 := by
  rw [shl1, BitVec.toNat_shiftLeft, Nat.shiftLeft_eq, pow_one, Nat.mul_comm]

/-- The bit step with bit 15 set reduces. -/
theorem crcStep_of_le {a : Word16} (h : 0x8000 ≤ a.toNat) : crcStep a = shl1 a ^^^ polyValue := by
  rw [crcStep, getLsbD_fifteen, if_pos (decide_eq_true h)]

/-- The bit step with bit 15 clear only shifts. -/
theorem crcStep_of_lt {a : Word16} (h : a.toNat < 0x8000) : crcStep a = shl1 a := by
  rw [crcStep, getLsbD_fifteen, if_neg (by simpa using h)]

/-- Settles O7: the two arms of the bit step, and masking distributes over exclusive or. -/
theorem bitStepShiftsAndReduces : Obligations.BitStepShiftsAndReduces := by
  intro a
  have reduced (h : 0x8000 ≤ a.toNat) : (crcStep a).toNat = (2 * a.toNat % 0x10000) ^^^ 0x1021 := by
    rw [crcStep_of_le h, BitVec.toNat_xor, shl1_toNat]
    rfl
  refine ⟨?_, fun h => ?_⟩
  · split_ifs with h
    · exact reduced h
    · rw [crcStep_of_lt (Nat.lt_of_not_le h), shl1_toNat]
      omega
  · rw [reduced h]
    exact (Nat.xor_mod_two_pow (a := 2 * a.toNat) (b := 0x1021) (n := 16)).symm

/-- Bit 0 of the result records bit 15 of the operand. -/
theorem crcStep_getLsbD_zero (a : Word16) : (crcStep a).getLsbD 0 = a.getLsbD 15 := by
  rw [crcStep_eq, shl1]
  cases a.getLsbD 15 <;> simp [polyValue]

/-- Only zero steps to zero: bit 0 says that nothing was reduced, so a shift that lost nothing gave zero. -/
theorem eq_zero_of_crcStep_eq_zero {a : Word16} (h : crcStep a = 0#16) : a = 0#16 := by
  have hlt : a.toNat < 0x8000 := by
    have hbit := crcStep_getLsbD_zero a
    rw [h, getLsbD_fifteen] at hbit
    simpa using hbit
  have hzero : 2 * a.toNat % 0x10000 = 0 := by
    rw [← shl1_toNat, ← crcStep_of_lt hlt, h]
    rfl
  exact BitVec.eq_of_toNat_eq (by rw [BitVec.toNat_ofNat]; omega)

/-- The bit step loses nothing. -/
theorem crcStep_injective : Function.Injective crcStep := by
  intro a b h
  have hzero : crcStep (a ^^^ b) = 0#16 := by rw [crcStep_xor, h, BitVec.xor_self]
  exact BitVec.xor_eq_zero_iff.1 (eq_zero_of_crcStep_eq_zero hzero)

/-! ## Several bit steps -/

theorem crcSteps_eq_iterate (n : Nat) (a : Word16) : crcSteps n a = crcStep^[n] a := by
  induction n generalizing a with
  | zero => rfl
  | succ n ih => exact ih (crcStep a)

theorem crcSteps_bijective (n : Nat) : Function.Bijective (crcSteps n) := by
  rw [← Finite.injective_iff_bijective, funext (crcSteps_eq_iterate n)]
  exact crcStep_injective.iterate n

/-- While the bits shifted out are zero, bit steps are a shift. -/
theorem crcSteps_of_lt {n : Nat} {a : Word16} (h : a.toNat * 2 ^ n < 0x10000) : crcSteps n a = a <<< n := by
  induction n generalizing a with
  | zero => simp
  | succ n ih =>
    rw [pow_succ', ← Nat.mul_assoc, Nat.mul_comm a.toNat] at h
    have hlt : 2 * a.toNat < 0x10000 := (Nat.le_mul_of_pos_right _ (Nat.two_pow_pos n)).trans_lt h
    rw [← Nat.mod_eq_of_lt hlt, ← shl1_toNat] at h
    rw [crcSteps, crcStep_of_lt (by omega), ih h, shl1, ← BitVec.shiftLeft_add, Nat.add_comm]

/-- Eight bit steps carry a byte from the low half to the high half unchanged. -/
theorem crcSteps_zext16 (b : Byte) : crcSteps 8 (zext16 b) = byteHigh b := by
  refine crcSteps_of_lt ?_
  rw [zext16, BitVec.toNat_setWidth_of_le (by decide)]
  omega

/-! ## The byte update -/

/-- Settles O8: bit steps are iterates of the bit step, and the two values by running them. -/
theorem byteUpdateIsEightBitSteps : Obligations.ByteUpdateIsEightBitSteps :=
  ⟨fun _ _ => crcSteps_eq_iterate 8 _, by decide +kernel, by decide +kernel⟩

/-- Two byte updates are sixteen bit steps with the two bytes folded in as one word. -/
theorem crcByte_crcByte (a : Word16) (b0 b1 : Byte) :
    crcByte (crcByte a b0) b1 = crcSteps 16 (a ^^^ (byteHigh b0 ^^^ zext16 b1)) := by
  rw [crcByte, crcByte, ← crcSteps_zext16 b1, ← crcSteps_xor, ← crcSteps_add, BitVec.xor_assoc]

/-- Two byte updates with the accumulator's own bytes leave zero. -/
theorem crcByte_hi8_lo8 (a : Word16) : crcByte (crcByte a (hi8 a)) (lo8 a) = 0#16 := by
  rw [crcByte_crcByte, byteHigh_hi8_xor_lo8, BitVec.xor_self, crcSteps_zero]

theorem byteHigh_xor (b c : Byte) : byteHigh (b ^^^ c) = byteHigh b ^^^ byteHigh c := by
  rw [byteHigh, zext16, BitVec.setWidth_xor, BitVec.shiftLeft_xor_distrib]
  rfl

/-- Shifting a word by a byte moves its low byte to the high half. -/
theorem shiftLeft_eight (a : Word16) : a <<< 8 = byteHigh (lo8 a) := by
  conv_lhs => rw [← byteHigh_hi8_xor_lo8 a, BitVec.shiftLeft_xor_distrib, byteHigh, ← BitVec.shiftLeft_add]
  simp [byteHigh]

/-- Settles O12: the low byte of `a` is carried to the high half, and the bit steps of its high byte are those of the
table entry. -/
theorem tableFormAgrees : Obligations.TableFormAgrees := by
  intro a b
  calc crcByte a b = crcSteps 8 (zext16 (lo8 a) ^^^ byteHigh (hi8 a ^^^ b)) := by
        conv_lhs => rw [crcByte, ← byteHigh_hi8_xor_lo8 a]
        rw [byteHigh_xor]
        ac_rfl
    _ = a <<< 8 ^^^ crcByte 0#16 (hi8 a ^^^ b) := by
        rw [crcSteps_xor, crcSteps_zext16, shiftLeft_eight, crcByte, BitVec.zero_xor]

theorem crcByte_bijective (b : Byte) : Function.Bijective fun a => crcByte a b :=
  Finite.injective_iff_bijective.1 fun _ _ h => (BitVec.xor_left_inj _).1 ((crcSteps_bijective 8).injective h)

/-! ## The bit-serial form -/

/-- A bit fed to the shift register is reduced with the bit that leaves it. -/
theorem serialStep_eq (a : Word16) (x : Bool) : serialStep a x = crcStep a ^^^ (if x then polyValue else 0#16) := by
  rw [serialStep, crcStep_eq]
  cases a.getLsbD 15 <;> cases x <;> simp

/-- A bit step on a byte of which bit `n` is at the top: it leaves, and is what the serial form feeds. -/
theorem crcStep_zext16_shiftLeft (b : Byte) {n : Nat} (hn : n < 16) :
    crcStep (zext16 b <<< (15 - n)) = zext16 b <<< (16 - n) ^^^ (if b.getLsbD n then polyValue else 0#16) := by
  have htop : (zext16 b <<< (15 - n)).getLsbD 15 = b.getLsbD n := by
    have hle : 15 - (15 - n) = n := by omega
    simp [zext16, hle]
  rw [crcStep_eq, htop, shl1, ← BitVec.shiftLeft_add, show 15 - n + 1 = 16 - n by omega]

/-- Feeding the low `n` bits of a byte one at a time, first bit `n - 1`, is folding them in at the top and then making
`n` bit steps. -/
theorem foldl_serialStep (b : Byte) {n : Nat} (hn : n ≤ 16) (a : Word16) :
    (List.range n).reverse.foldl (fun a i => serialStep a (b.getLsbD i)) a =
      crcSteps n (a ^^^ zext16 b <<< (16 - n)) := by
  induction n generalizing a with
  | zero => simp [zext16, BitVec.shiftLeft_eq_zero]
  | succ n ih =>
    have hfold : serialStep a (b.getLsbD n) ^^^ zext16 b <<< (16 - n) = crcStep (a ^^^ zext16 b <<< (15 - n)) := by
      rw [serialStep_eq, crcStep_xor, crcStep_zext16_shiftLeft b hn]
      ac_rfl
    rw [List.range_succ, List.reverse_concat, List.foldl_cons, ih (by omega), hfold, crcSteps,
      show 16 - (n + 1) = 15 - n by omega]

/-- Settles O9: all eight bits of the byte fed in. -/
theorem serialFormAgrees : Obligations.SerialFormAgrees :=
  fun a b => (foldl_serialStep b (n := 8) (by decide) a).symm

/-! ## The checksum of a byte sequence -/

/-- Settles O10: the start and the recursion are the definition's, and the check value by running it. -/
theorem checksumTakesBytesInOrder : Obligations.ChecksumTakesBytesInOrder :=
  ⟨crc16_nil, crc16_concat, by decide +kernel⟩

/-- Settles O11: the two last updates fold in the accumulator's own bytes. -/
theorem residueIsZero : Obligations.ResidueIsZero := by
  intro s
  rw [crc16, List.foldl_append]
  exact crcByte_hi8_lo8 (crc16 s)

theorem crc16_pair (b0 b1 : Byte) : crc16 [b0, b1] = crcSteps 16 (initValue ^^^ (byteHigh b0 ^^^ zext16 b1)) :=
  crcByte_crcByte initValue b0 b1

/-- Two bytes reach every checksum: sixteen bit steps reach it from some word, which two bytes make of the start
value. -/
theorem exists_crc16_pair (v : Word16) : ∃ b0 b1, crc16 [b0, b1] = v := by
  obtain ⟨x, hx⟩ := (crcSteps_bijective 16).surjective v
  refine ⟨hi8 (initValue ^^^ x), lo8 (initValue ^^^ x), ?_⟩
  rw [crc16_pair, byteHigh_hi8_xor_lo8, ← BitVec.xor_assoc, BitVec.xor_self, BitVec.zero_xor, hx]

/-! ## The commands -/

/-- Settles O13: the command's arm of `exec`, and the decoder on opcode 0x01. -/
theorem crcInitCommand : Obligations.CrcInitCommand := by
  refine ⟨fun s => rfl, by decide, fun w hopc hbits => ?_, ?_, fun s _ => ⟨_, rfl, rfl, rfl⟩⟩
  · simp [decode_eq_illegal_iff, hopc, hbits]
  · rintro s t ⟨⟩
    rfl

/-- Settles O14: the command's arm of `exec`, the decoder on opcode 0x02, `crcByte_bijective` and
`exists_crc16_pair`. -/
theorem crcUpdateCommand : Obligations.CrcUpdateCommand := by
  refine ⟨fun b s => rfl, fun w hopc => ⟨fun hbits => ?_, fun hbits => ?_⟩, by decide, by decide, by decide, by decide,
    crcByte_bijective, exists_crc16_pair, fun b => ⟨_, rfl, rfl⟩⟩
  · simp [decode, hopc, hbits]
  · simp [decode_eq_illegal_iff, hopc, hbits]

/-- Settles O15: the command's arm of `exec`, which leaves `acc` alone, and the decoder on opcode 0x03. -/
theorem crcReadCommand : Obligations.CrcReadCommand := by
  refine ⟨fun s => rfl, by decide, fun w hopc hbits => ?_, ?_, fun s => ⟨_, _, rfl, rfl, rfl⟩, ⟨_, rfl, by decide⟩,
    fun s hacc => ?_⟩
  · simp [decode_eq_illegal_iff, hopc, hbits]
  · rintro s t b ⟨⟩
    exact ⟨_, _, rfl, rfl, rfl⟩
  · have hbytes : bigEndian s.acc = [0x29#8, 0xB1#8] := by rw [hacc]; decide
    exact ⟨_, rfl, by rw [State.emit_out, hbytes], hacc⟩

/-! ## Commands issued by the host, one step each -/

/-- A command leaves a waiting core waiting. -/
theorem exec_waiting {i : Instr} {s t : State} (hs : s.Waiting) (h : exec i s = .next t) : t.Waiting := by
  obtain ⟨-, -, -, hfaulted, hbusy, -, -, -, houtq, -, -, hoffered, hheld, -⟩ := exec_next h
  simpa [State.Waiting, State.idle, hfaulted, hbusy, houtq, hoffered, hheld] using hs

/-- The step of a command issued to the waiting core runs it, and the core waits again. -/
theorem step_issue {s : State} {i : Instr} {rest : List HostMove} (hs : s.Waiting)
    (hhost : s.host = .issue i :: rest) :
    ∃ t, step s = .next t ∧ t.Waiting ∧ t.host = rest ∧ t.acc = accAfter [i] s.acc ∧
      t.out = s.out ++ outputAfter [i] s.acc := by
  have hlatched : ((s.setHost rest).latch (encode i)).Waiting := by
    obtain ⟨hidle, -, -, hfaulted⟩ := hs
    exact ⟨hidle, rfl, rfl, hfaulted⟩
  obtain ⟨t, ht, hacc, hout⟩ := exec_acc_out i ((s.setHost rest).latch (encode i))
  obtain ⟨-, -, -, -, -, -, -, -, -, -, -, -, -, hrest⟩ := exec_next ht
  refine ⟨t, ?_, exec_waiting hlatched ht, hrest, hacc, hout⟩
  rw [stepRunsTheDecodedCommand s (encode i) rest i hs hhost (decode_encode i), ht]

/-- A list of commands issued to the waiting core takes one step each, with the `acc` and the output of the list. -/
theorem stepN_issue {s : State} {is : List Instr} {rest : List HostMove} (hs : s.Waiting)
    (hhost : s.host = is.map .issue ++ rest) :
    ∃ t, stepN is.length s = .next t ∧ t.Waiting ∧ t.host = rest ∧ t.acc = accAfter is s.acc ∧
      t.out = s.out ++ outputAfter is s.acc := by
  induction is generalizing s with
  | nil => exact ⟨s, rfl, hs, hhost, rfl, (List.append_nil _).symm⟩
  | cons i is ih =>
    obtain ⟨u, hu, huwaiting, huhost, huacc, huout⟩ := step_issue hs hhost
    obtain ⟨t, ht, htwaiting, hthost, htacc, htout⟩ := ih huwaiting huhost
    refine ⟨t, by rw [List.length_cons, stepN, hu]; exact ht, htwaiting, hthost, ?_, ?_⟩
    · rw [htacc, huacc, ← accAfter_cons]
    · rw [htout, huout, huacc, List.append_assoc, ← outputAfter_cons]

/-! ## The command sequence of `computeChecksum` -/

theorem accAfter_append (is js : List Instr) (a : Word16) :
    accAfter (is ++ js) a = accAfter js (accAfter is a) := by
  induction is generalizing a with
  | nil => rfl
  | cons i is ih => rw [List.cons_append, accAfter_cons, ih, ← accAfter_cons]

theorem outputAfter_append (is js : List Instr) (a : Word16) :
    outputAfter (is ++ js) a = outputAfter is a ++ outputAfter js (accAfter is a) := by
  induction is generalizing a with
  | nil => rfl
  | cons i is ih =>
    rw [List.cons_append, outputAfter_cons, ih, ← List.append_assoc, ← outputAfter_cons, ← accAfter_cons]

/-- FRAME_READ_MEM commands do not touch `acc` (41_frame R116). -/
theorem accAfter_filter_not_isFrame (is : List Instr) (a : Word16) :
    accAfter (is.filter fun i => !isFrame i) a = accAfter is a := by
  induction is generalizing a with
  | nil => rfl
  | cons i is ih => cases i <;> exact ih _

theorem accAfter_updates (data : List Byte) (a : Word16) :
    accAfter (data.map .crcUpdate) a = data.foldl crcByte a := by
  induction data generalizing a with
  | nil => rfl
  | cons b data ih => exact ih (crcByte a b)

theorem outputAfter_updates (data : List Byte) (a : Word16) : outputAfter (data.map .crcUpdate) a = [] := by
  induction data generalizing a with
  | nil => rfl
  | cons b data ih => exact ih (crcByte a b)

/-- Settles O21: each command is a step (`stepN_issue`), and the frames among them do not touch `acc`. -/
theorem checksumSequenceComputesTheChecksum : Obligations.ChecksumSequenceComputesTheChecksum := by
  intro s data before rest hs hbefore hhost
  have hacc : accAfter before s.acc = crc16 data := by
    rw [← accAfter_filter_not_isFrame, hbefore]
    exact accAfter_updates data initValue
  obtain ⟨t, ht, -, hthost, htacc, htout⟩ := stepN_issue hs hhost
  rw [accAfter_append, hacc] at htacc
  rw [outputAfter_append, hacc, ← List.append_assoc] at htout
  refine ⟨t, outputAfter before s.acc, by rw [← ht, List.length_append, List.length_singleton], hthost, htacc,
    htout, ?_⟩
  rintro rfl
  exact outputAfter_updates data initValue

end Sys2Proof.Machine

/-! # The frame

The byte update loses nothing, so a byte or a word folded into the checksum is still seen in it after further bytes: two
frames that differ in one operand have different checksums. -/

namespace Sys2Proof.Machine

/-! ## Bytes folded into the checksum are not lost -/

/-- Taking the byte back out of the high half. -/
theorem hi8_byteHigh (b : Byte) : hi8 (byteHigh b) = b := by
  refine BitVec.eq_of_getLsbD_eq fun i hi => ?_
  simp [hi8, byteHigh_getLsbD, hi]

/-- From one accumulator, different bytes lead to different accumulators. -/
theorem crcByte_right_injective (a : Word16) : Function.Injective (crcByte a) := fun _ _ h =>
  Function.LeftInverse.injective hi8_byteHigh ((BitVec.xor_right_inj _).1 ((crcSteps_bijective 8).injective h))

/-- Folding in a word16, high byte first, is sixteen bit steps with the word folded in. -/
theorem foldl_crcByte_bigEndian (a v : Word16) : (bigEndian v).foldl crcByte a = crcSteps 16 (a ^^^ v) := by
  rw [bigEndian, List.foldl_cons, List.foldl_cons, List.foldl_nil, crcByte_crcByte, byteHigh_hi8_xor_lo8]

/-- From one accumulator, different words lead to different accumulators. -/
theorem foldl_crcByte_bigEndian_injective (a : Word16) :
    Function.Injective fun v : Word16 => (bigEndian v).foldl crcByte a := by
  intro v w h
  simp only [foldl_crcByte_bigEndian] at h
  exact (BitVec.xor_right_inj _).1 ((crcSteps_bijective 16).injective h)

/-- The bytes that follow keep different accumulators different. -/
theorem foldl_crcByte_injective (bytes : List Byte) : Function.Injective fun a : Word16 => bytes.foldl crcByte a := by
  induction bytes with
  | nil => exact Function.injective_id
  | cons b bytes ih => exact ih.comp (crcByte_bijective b).injective

/-! ## The checksum and the bytes of a frame -/

/-- The frame's checksum, operand by operand. -/
theorem frameCrc_eq_foldl (tag : Byte) (sb nb : Word16) : frameCrc tag sb nb =
    (bigEndian nb).foldl crcByte
      ((bigEndian sb).foldl crcByte (crcByte (crc16 [msgLen, flagsByte, commandReadMem]) tag)) := by
  simp only [frameCrc, frameMessage, crc16, List.foldl_append, List.foldl_cons, List.foldl_nil]

theorem frameCrc_tag_injective (sb nb : Word16) : Function.Injective fun tag => frameCrc tag sb nb := by
  intro tag tag' h
  simp only [frameCrc_eq_foldl] at h
  exact crcByte_right_injective _ (foldl_crcByte_injective _ (foldl_crcByte_injective _ h))

theorem frameCrc_sb_injective (tag : Byte) (nb : Word16) : Function.Injective fun sb => frameCrc tag sb nb := by
  intro sb sb' h
  simp only [frameCrc_eq_foldl] at h
  exact foldl_crcByte_bigEndian_injective _ (foldl_crcByte_injective _ h)

theorem frameCrc_nb_injective (tag : Byte) (sb : Word16) : Function.Injective fun nb => frameCrc tag sb nb := by
  intro nb nb' h
  simp only [frameCrc_eq_foldl] at h
  exact foldl_crcByte_bigEndian_injective _ h

/-- Frames with different checksums differ in bytes 8, 9. -/
theorem frameBytes_drop_eight_ne {tag tag' : Byte} {sb sb' nb nb' : Word16}
    (h : frameCrc tag sb nb ≠ frameCrc tag' sb' nb') :
    (frameBytes tag sb nb).drop 8 ≠ (frameBytes tag' sb' nb').drop 8 := by
  rw [frameBytes_drop_eight, frameBytes_drop_eight]
  exact mt bigEndian_injective h

/-- All bytes of the frame but the checksum's are the message's, so frames agree where their messages do. -/
theorem frameBytes_getElem?_congr {tag tag' : Byte} {sb sb' nb nb' : Word16} {k : Nat} (h8 : k ≠ 8) (h9 : k ≠ 9)
    (h : (frameMessage tag sb nb)[k]? = (frameMessage tag' sb' nb')[k]?) :
    (frameBytes tag sb nb)[k]? = (frameBytes tag' sb' nb')[k]? := by
  rcases Nat.lt_or_ge k 8 with hlt | hge
  · rwa [frameBytes, frameBytes, List.getElem?_append_left hlt, List.getElem?_append_left hlt]
  · have hend : 10 ≤ k := by omega
    rw [List.getElem?_eq_none hend, List.getElem?_eq_none hend]

/-! Another operand is a change of its own bytes of the message (41_frame R110). -/

theorem frameMessage_eq_set_tag (tag tag' : Byte) (sb nb : Word16) :
    frameMessage tag' sb nb = (frameMessage tag sb nb).set 3 tag' := rfl

theorem frameMessage_eq_set_sb (tag : Byte) (sb sb' nb : Word16) :
    frameMessage tag sb' nb = ((frameMessage tag sb nb).set 4 (hi8 sb')).set 5 (lo8 sb') := rfl

theorem frameMessage_eq_set_nb (tag : Byte) (sb nb nb' : Word16) :
    frameMessage tag sb nb' = ((frameMessage tag sb nb).set 6 (hi8 nb')).set 7 (lo8 nb') := rfl

/-! ## The command and its frame -/

/-- FRAME_READ_MEM leaves the frame's checksum in the private accumulator and appends the frame to the output (41_frame
R115). -/
theorem exec_frameReadMem (tag : Byte) (sb nb : Word16) (s : State) : exec (.frameReadMem tag sb nb) s =
    .next ((s.setFacc (frameCrc tag sb nb)).emit (frameBytes tag sb nb)) := rfl

/-- Settles O18: a changed operand is a changed place of the message and a changed checksum, and the whole frame is a
sequence followed by its checksum. -/
theorem frameProperties : Obligations.FrameProperties := by
  intro tag sb nb
  refine ⟨frameBytes_length tag sb nb,
    fun s s' => ⟨_, _, _, exec_frameReadMem tag sb nb s, exec_frameReadMem tag sb nb s', rfl, rfl⟩,
    fun tag' hne => ⟨fun k h3 h8 h9 => frameBytes_getElem?_congr h8 h9 ?_, ?_⟩,
    fun sb' hne => ⟨fun k h4 h5 h8 h9 => frameBytes_getElem?_congr h8 h9 ?_, ?_⟩,
    fun nb' hne => ⟨fun k h6 h7 h8 h9 => frameBytes_getElem?_congr h8 h9 ?_, ?_⟩,
    residueIsZero (frameMessage tag sb nb), _, rfl, rfl⟩
  · rw [frameMessage_eq_set_tag tag, List.getElem?_set_ne h3.symm]
  · exact frameBytes_drop_eight_ne ((frameCrc_tag_injective sb nb).ne hne)
  · rw [frameMessage_eq_set_sb tag sb, List.getElem?_set_ne h5.symm, List.getElem?_set_ne h4.symm]
  · exact frameBytes_drop_eight_ne ((frameCrc_sb_injective tag nb).ne hne)
  · rw [frameMessage_eq_set_nb tag sb nb, List.getElem?_set_ne h7.symm, List.getElem?_set_ne h6.symm]
  · exact frameBytes_drop_eight_ne ((frameCrc_nb_injective tag sb).ne hne)

/-- Settles O22: the command's arm of `exec` reads no state but the output, and `accAfter` skips the frames. -/
theorem framesLeaveTheChecksumAlone : Obligations.FramesLeaveTheChecksumAlone := by
  refine ⟨fun tag sb nb s s' => ⟨_, _, frameBytes tag sb nb, exec_frameReadMem tag sb nb s,
    exec_frameReadMem tag sb nb s', rfl, rfl, rfl, rfl⟩, fun is s => ?_⟩
  obtain ⟨t, ht, htacc, -⟩ := execAll_acc_out is s
  obtain ⟨u, hu, huacc, -⟩ := execAll_acc_out (is.filter fun i => !isFrame i) s
  have hacc : t.acc = u.acc := by rw [htacc, huacc, accAfter_filter_not_isFrame]
  exact ⟨t, u, _, _, bigEndian t.acc, ht, hu, hacc, rfl, rfl, rfl, by rw [hacc]; rfl⟩

/-- Settles O16: the command's arm of `exec`, the decoder on opcode 0x10, and the example frames by running them. -/
theorem frameReadMemCommand : Obligations.FrameReadMemCommand := by
  have hexample : frameBytes 0x01#8 0x0000#16 0x0001#16 =
      [0x09#8, 0x00#8, 0x20#8, 0x01#8, 0x00#8, 0x00#8, 0x00#8, 0x01#8, 0xE7#8, 0x4F#8] := by decide +kernel
  refine ⟨fun tag sb nb s => ⟨frameCrc tag sb nb, exec_frameReadMem tag sb nb s⟩,
    fun w hopc => by simp [decode, hopc], by decide +kernel, by decide +kernel, by decide,
    fun s => ⟨_, exec_frameReadMem 0x01#8 0x0000#16 0x0001#16 s, ?_, ?_⟩⟩
  · rw [State.emit_out, State.setFacc_out, hexample]
  · rw [State.emit_acc, State.setFacc_acc]

/-- Settles O17: the message lists its bytes, and the checksum is over them (`frameBytes_take_eight`). -/
theorem frameLayout : Obligations.FrameLayout := by
  intro tag sb nb
  dsimp only
  rw [frameBytes_take_eight]
  exact ⟨frameBytes_length tag sb nb, rfl, rfl, rfl, rfl, rfl, rfl, rfl, rfl, rfl, rfl⟩

end Sys2Proof.Machine

/-! # Exceptions (60_exceptions)

No command raises one; an illegal word is a fault for the model and no event at all for the hardware. -/

namespace Sys2Proof.Machine

/-! ## Legal commands -/

/-- Settles O19, from `exec_acc_out` and, for the step, `step_issue`. -/
theorem legalCommandsRaiseNothing : Obligations.LegalCommandsRaiseNothing := by
  refine ⟨fun i s => ?_, fun s i rest hs hhost => ?_⟩
  · obtain ⟨t, ht, -⟩ := exec_acc_out i s
    exact ⟨t, ht⟩
  · obtain ⟨t, ht, -⟩ := step_issue hs hhost
    exact ⟨t, ht⟩

/-! ## Illegal words -/

/-- A run whose first step faults ends where it began, with the fault mark set (60_exceptions R131). -/
theorem finalState_of_fault {s : State} {f : Fault} (h : step s = .fault f) (n : Nat) :
    finalState (n + 1) s = s.markFaulted := by
  rw [finalState, h]

@[simp] theorem State.observe_markFaulted (s : State) : s.markFaulted.observe = ⟨s.acc, s.out, true⟩ := rfl

/-- An edge with an illegal word at the command port, presented or not, changes nothing in the waiting core
(60_exceptions R131, hardware behaviour). -/
theorem State.clock_of_illegal {s : State} {pins : Pins} (hs : s.Waiting) (hrst : pins.rst = false)
    (hdec : decode pins.cmdWord = .illegal pins.cmdWord) (pace : Pace) : s.clock pins pace = s := by
  obtain ⟨hidle, hheld, hoffered, -⟩ := hs
  have hsame : { s with offered := none, rstHeld := 0 } = s := by rw [← hheld, ← hoffered]
  rw [State.clock_of_idle hrst hidle, State.acceptEdge, hdec]
  exact (ite_self _).trans hsame

/-- The step of an edge that accepts an illegal word is its fault (60_exceptions R131). -/
theorem edgeStep_of_illegal {s : State} {pins : Pins} (hs : s.Waiting) (hrst : pins.rst = false)
    (hvalid : pins.cmdValid = true) (hdec : decode pins.cmdWord = .illegal pins.cmdWord) (pace : Pace) :
    edgeStep pins pace s = .fault (.illegalCommand pins.cmdWord) := by
  obtain ⟨hidle, hheld, hoffered, hfaulted⟩ := hs
  have hports : s.portProblem pins = none := by
    rw [State.portProblem_eq_offerProblem hrst hheld, State.offerProblem, hoffered]
  simp [edgeStep, hfaulted, hports, State.cmdReady, hrst, hidle, hvalid, hdec, Decoded.instr?, raiseIllegal]

/-- Settles O26: the command move by `step_of_illegal`, the edge by `State.clock_of_illegal` and
`edgeStep_of_illegal`. -/
theorem illegalWordFaults : Obligations.IllegalWordFaults := by
  refine ⟨fun s w rest n hs hhost hdec => ?_, fun s w outReady pace hs hdec => ?_, fun f => by cases f <;> rfl⟩
  · have hstep := step_of_illegal hs hhost hdec
    exact ⟨hstep, by rw [finalState_of_fault hstep, State.observe_markFaulted]⟩
  · exact ⟨State.clock_of_illegal (pins := ⟨false, true, w, outReady⟩) hs rfl hdec pace, hs.1,
      edgeStep_of_illegal (pins := ⟨false, true, w, outReady⟩) hs rfl rfl hdec pace⟩

end Sys2Proof.Machine

/-! # Reset and hazards (70_reset)

What a reset does to the core and to a command in progress, and the checksum as callers share it. -/

namespace Sys2Proof.Machine

/-! ## The reset event -/

/-- An edge with `rst` high enters the reset state (70_reset R150). -/
theorem State.clock_of_rst {pins : Pins} (hrst : pins.rst = true) (s : State) (pace : Pace) :
    s.clock pins pace = { s.applyReset with rstHeld := s.rstHeld + 1, offered := pins.offer } := by
  simp [State.clock, hrst]

/-- Settles O32, from `State.clock_of_rst`; `rst` itself holds the two ports low. -/
theorem resetEdge : Obligations.ResetEdge := by
  intro s pins pace hrst
  rw [State.clock_of_rst hrst]
  exact ⟨rfl, rfl, rfl, rfl, rfl, rfl, rfl⟩

/-- A reset pulse that is long enough leaves the reset state (70_reset R151). -/
theorem finishReset_of_le {edges : Nat} (h : Config.tReset ≤ edges) (s : State) :
    finishReset edges s = .next s.applyReset := if_neg (Nat.not_lt.2 h)

/-- A shorter one is refused (93_implementation_defined I5). -/
theorem finishReset_of_lt {edges : Nat} (h : edges < Config.tReset) (s : State) :
    finishReset edges s = .refused .shortReset := if_pos h

/-- Settles O33, from `finishReset_of_le` and `finishReset_of_lt`. -/
theorem resetMoveNeedsEnoughEdges : Obligations.ResetMoveNeedsEnoughEdges := by
  intro s edges rest hhost
  have hstep : step s = finishReset (s.rstHeld + edges) (s.setHost rest) := step_of_host hhost
  refine ⟨fun hlong => ?_, fun hshort => ?_⟩
  · exact ⟨_, hstep.trans (finishReset_of_le hlong _), rfl, rfl, rfl, rfl, rfl, rfl⟩
  · exact hstep.trans (finishReset_of_lt hshort _)

/-- Settles O34: the waiting core accepts the word, the bytes taken join the output, and the pulse is long enough. -/
theorem resetCutsACommandShort : Obligations.ResetCutsACommandShort := by
  rintro s i k edges rest ⟨hidle, hheld, hoffered, hfaulted⟩ hhost hlong
  have hstep : step s =
      .next (((s.setHost rest).latch (encode i)).emit ((commandOutput i s).take k)).applyReset := by
    rw [step_of_host hhost, runMove, presentWord_eq (s := s.setHost rest) hfaulted hheld (.inl hoffered),
      State.setHost_idle, if_pos hidle]
    simp [acceptWord, cutShort, finishReset_of_le hlong]
  exact ⟨_, hstep, rfl, rfl, rfl, rfl, rfl, fun hk => by simp [hk.le]⟩

/-! ## The checksum without CRC_INIT, and between callers -/

/-- Without a CRC_INIT among them, commands fold their bytes into what `acc` holds (70_reset R156). -/
theorem accAfter_of_no_init {is : List Instr} (h : is.any isInit = false) (a : Word16) :
    accAfter is a = (foldedBytes is).foldl crcByte a := by
  induction is generalizing a with
  | nil => rfl
  | cons i is ih =>
    rw [List.any_cons, Bool.or_eq_false_iff] at h
    obtain ⟨hi, his⟩ := h
    cases i with
    | crcInit => simp [isInit] at hi
    | crcUpdate b => exact ih his (crcByte a b)
    | crcRead => exact ih his a
    | frameReadMem tag sb nb => exact ih his a

/-- Settles O23: the CRC_INIT makes `acc` the start value, and `accAfter_of_no_init`. -/
theorem sharedAccumulatorMixesCallers : Obligations.SharedAccumulatorMixesCallers := by
  intro earlier later s hlater
  obtain ⟨t, ht, hacc, -⟩ := execAll_acc_out (earlier ++ .crcInit :: later) s
  have hcrc : t.acc = crc16 (foldedBytes later) := by
    rw [hacc, accAfter_append]
    exact accAfter_of_no_init hlater initValue
  exact ⟨t, _, ht, hcrc, rfl, by rw [← hcrc]; rfl⟩

/-- Settles O25: updates fold their bytes into `acc` and emit nothing, and the reset state holds the start value. -/
theorem checksumWithoutInit : Obligations.ChecksumWithoutInit := by
  refine fun data => ⟨?_, fun s => ?_⟩
  · obtain ⟨t, ht, hacc, hout⟩ := execAll_acc_out (data.map .crcUpdate ++ [.crcRead]) State.reset
    rw [accAfter_append, accAfter_updates] at hacc
    rw [outputAfter_updates_read] at hout
    exact ⟨t, ht, hacc, hout⟩
  · obtain ⟨t, ht, hacc, hout⟩ := execAll_acc_out (data.map .crcUpdate) s
    rw [accAfter_updates] at hacc
    rw [outputAfter_updates, List.append_nil] at hout
    exact ⟨t, ht, hacc, hout⟩

/-! ## A reset at an edge during a command -/

/-- How many bytes of the output of the command in progress the host has not taken. -/
def bytesLeft (i : Instr) (s : State) : Nat := s.outq.length + (outputLeft i s).length

/-- The bytes taken and those not taken make up the output stream that the command will leave. -/
theorem State.completed_out_length (s : State) (i : Instr) :
    (s.completed i).out.length = s.out.length + bytesLeft i s := by
  simp [State.completed, bytesLeft]

/-- A command with output is in progress only while a byte of it has not been taken (20_memory R43). -/
theorem State.InProgress.bytesLeft_pos {s : State} {i : Instr} (h : s.InProgress i) :
    0 < bytesLeft i s ∨ (commandOutput i s).length = 0 := by
  cases i with
  | crcInit => exact .inr rfl
  | crcUpdate b => exact .inr rfl
  | crcRead =>
    obtain ⟨hq, -⟩ := h
    exact .inl (Nat.add_pos_left (List.length_pos_of_ne_nil hq) _)
  | frameReadMem tag sb nb =>
    obtain ⟨⟨hidx, -⟩ | ⟨-, -, hq⟩, -⟩ := h
    · have hpushed : (framePushed tag sb nb s).length ≤ 8 := by simp [framePushed, hidx]
      have hleft : 0 < (outputLeft (.frameReadMem tag sb nb) s).length := by
        simp only [outputLeft, commandOutput, commandPushed, List.length_drop, frameBytes_length]
        omega
      exact .inl (Nat.add_pos_right _ hleft)
    · exact .inl (Nat.add_pos_left (List.length_pos_of_ne_nil hq) _)

theorem State.clockQuiet_out_prefix (s : State) (edges : List (Bool × Pace)) : s.out <+: (s.clockQuiet edges).out := by
  induction edges generalizing s with
  | nil => exact List.prefix_rfl
  | cons e edges ih => exact (s.clock_out_prefix _ _).trans (ih _)

theorem State.Inv.clockQuiet {s : State} (h : s.Inv) (edges : List (Bool × Pace)) : (s.clockQuiet edges).Inv := by
  induction edges generalizing s with
  | nil => exact h
  | cons e edges ih => exact ih (h.clock _ _)

/-- The command in progress is the one whose word is latched. -/
theorem State.Inv.inProgress_of_current {s : State} {i : Instr} (h : s.Inv) (hbusy : s.busy = true)
    (hcur : s.current = some i) : s.InProgress i := by
  obtain ⟨j, hcurj, hj⟩ := h.busyLegal hbusy
  obtain rfl : i = j := by simpa [hcur] using hcurj
  exact hj

@[simp] theorem State.completed_current (s : State) (i : Instr) : (s.completed i).current = s.current := rfl

/-- What the accepted command will leave does not depend on the edges that follow: while it is in progress, the bytes
taken, pending and still to come are its output (20_memory R45). -/
theorem State.Inv.clockQuiet_of_accepted {s : State} (h : s.Inv) (hidle : s.idle = true) {w : Word48} {i : Instr}
    (hdec : decode w = .command i) (outReady : Bool) (pace : Pace) (edges : List (Bool × Pace)) {t : State}
    (ht : t = (s.clock ⟨false, true, w, outReady⟩ pace).clockQuiet edges) (hnot : t.idle = false) :
    t.InProgress i ∧ t.out ++ (t.outq ++ outputLeft i t) = s.out ++ commandOutput i s := by
  rw [State.clock_of_accepted (pins := ⟨false, true, w, outReady⟩) rfl hidle rfl hdec pace] at ht
  have hstart := (h.start hidle hdec).present pace.emit
  have hcur : ((s.start w i).present pace.emit).current = some i := by simpa using s.start_current hdec
  have hquiet := hstart.clockQuiet_completed (by simp) hcur edges
  rw [← ht, State.completed_present] at hquiet
  rcases hquiet with ⟨hbusy, hcompleted⟩ | hdone
  · have hinv : t.Inv := ht ▸ hstart.clockQuiet edges
    have hcurt : t.current = some i := by
      rw [← s.start_current hdec, ← State.completed_current t i, hcompleted, State.completed_current]
    obtain ⟨hout, -⟩ := exec_next (h.exec_eq_completed hidle w i)
    refine ⟨hinv.inProgress_of_current hbusy hcurt, ?_⟩
    rw [← hcompleted] at hout
    simpa [State.completed] using hout
  · rw [hdone] at hnot
    cases hnot

/-- Settles O35: the bytes taken by then are an initial part of the output, and one of it is left. -/
theorem resetAtAnEdgeLeavesAPrefix : Obligations.ResetAtAnEdgeLeavesAPrefix := by
  rintro s i outReady pace edges pins last h ⟨hidle, -⟩ hrst t hnot
  obtain ⟨hprogress, hout⟩ := h.clockQuiet_of_accepted hidle (decode_encode i) outReady pace edges rfl hnot
  obtain ⟨taken, htaken⟩ : s.out <+: t.out := (s.clock_out_prefix _ _).trans (State.clockQuiet_out_prefix _ _)
  have hsplit : commandOutput i s = taken ++ (t.outq ++ outputLeft i t) := by
    rw [← htaken, List.append_assoc] at hout
    exact (List.append_cancel_left hout).symm
  rw [State.clock_of_rst hrst]
  refine ⟨rfl, rfl, taken.length, ?_, ?_⟩
  · rw [hsplit, List.take_left, htaken]
    rfl
  · rcases hprogress.bytesLeft_pos with hleft | hnone
    · left
      rw [hsplit, List.length_append, List.length_append]
      exact Nat.lt_add_of_pos_right hleft
    · right
      rw [← List.length_eq_zero_iff, ← hnone]
      exact commandOutput_length_eq i s t

end Sys2Proof.Machine

/-! # How long a command takes (70_reset R170, R171)

`bitsLeft` and `bytesLeft` count what a command in progress still has to do.  Neither ever goes up, and each edge at
which everything may go on uses up some of what is left (`progressLeft`); at the reference pace `edgesLeft` says exactly
how many edges there are to come. -/

namespace Sys2Proof.Machine

/-! ## Bit steps still to come -/

/-- How many bit steps the command in progress has still to make (40_checksum R81, 41_frame R116). -/
def bitsLeft (i : Instr) (s : State) : Nat :=
  match i with
  | .crcInit => 0
  | .crcUpdate _ => 8 - s.bitcnt.toNat
  | .crcRead => 0
  | .frameReadMem _ _ _ => 64 - (8 * s.fidx.toNat + s.bitcnt.toNat)

@[simp] theorem bitsLeft_takeByte (i : Instr) (s : State) (outReady : Bool) :
    bitsLeft i (s.takeByte outReady) = bitsLeft i s := by
  cases i <;> simp [bitsLeft]

@[simp] theorem bitsLeft_present (i : Instr) (s : State) (emit : Bool) :
    bitsLeft i (s.present emit) = bitsLeft i s := by
  cases i <;> simp [bitsLeft]

theorem bitsLeft_workUpdate (b : Byte) (s : State) :
    bitsLeft (.crcUpdate b) (s.workUpdate b) = bitsLeft (.crcUpdate b) s - 1 := by
  unfold State.workUpdate
  split
  · have hcount : (s.bitcnt + 1#4).toNat = s.bitcnt.toNat + 1 := by bv_omega
    simp only [bitsLeft, hcount]
    omega
  · simp only [bitsLeft]
    omega

/-- A bit step of a frame moves the counters on by one, over the end of a byte and of the message too. -/
theorem State.Engaged.bitsLeft_workFrame {s : State} {tag : Byte} {sb nb : Word16}
    (h : s.Engaged (.frameReadMem tag sb nb)) :
    bitsLeft (.frameReadMem tag sb nb) (s.workFrame tag sb nb) = bitsLeft (.frameReadMem tag sb nb) s - 1 := by
  obtain ⟨hcnt, -⟩ := h
  rcases s.workFrame_cases tag sb nb with
    ⟨hidx, hw⟩ | ⟨hidx, hbit, hw⟩ | ⟨hidx, hbit, hw⟩ | ⟨hidx, hbit, hw⟩ <;> rw [hw]
  · simp only [bitsLeft]
    omega
  · have hcount : (s.bitcnt + 1#4).toNat = s.bitcnt.toNat + 1 := by bv_omega
    simp only [bitsLeft, State.foldFrame, hcount]
    omega
  · have hcount : (s.fidx + 1#4).toNat = s.fidx.toNat + 1 := by bv_omega
    simp only [bitsLeft, hcount, BitVec.toNat_ofNat]
    rcases hcnt with ⟨-, hlt⟩ | ⟨hten, -⟩
    · omega
    · simp [hten] at hidx
  · simp only [bitsLeft, BitVec.toNat_ofNat]
    omega

/-- The engine's step is one of the bit steps still to come. -/
theorem State.Engaged.bitsLeft_work {s : State} {i : Instr} (h : s.Engaged i) (hcur : s.current = some i) :
    bitsLeft i s.work = bitsLeft i s - 1 := by
  rw [s.work_eq hcur]
  cases i with
  | crcInit => rfl
  | crcUpdate b => exact bitsLeft_workUpdate b s
  | crcRead => rfl
  | frameReadMem tag sb nb => exact h.bitsLeft_workFrame

theorem State.Engaged.bitsLeft_engine_le {s : State} {i : Instr} (h : s.Engaged i) (hcur : s.current = some i)
    (stepped : Bool) : bitsLeft i (s.engine stepped) ≤ bitsLeft i s := by
  rcases s.engine_cases stepped with ⟨he, -⟩ | he <;> rw [he]
  rw [h.bitsLeft_work hcur]
  exact Nat.sub_le _ _

/-- At an edge with a step the engine is done exactly when no bit step is left. -/
theorem State.Engaged.worked_iff {s : State} {i : Instr} (h : s.Engaged i) (hcur : s.current = some i) :
    s.worked true = true ↔ bitsLeft i s = 0 := by
  cases i with
  | crcInit => simp [State.worked, hcur, bitsLeft]
  | crcUpdate b => simp [State.worked, hcur, bitsLeft, Nat.sub_eq_zero_iff_le]
  | crcRead => simp [State.worked, hcur, bitsLeft]
  | frameReadMem tag sb nb =>
    obtain ⟨⟨hidx, hbit⟩ | ⟨hidx, -⟩, -⟩ := h
    · simp only [State.worked, hcur, bitsLeft, decide_eq_true_eq]
      omega
    · simp only [State.worked, hcur, bitsLeft, decide_eq_true_eq, hidx, BitVec.toNat_ofNat]
      omega

/-! ## Bytes still to be taken -/

/-- The engine hands bytes over; it takes none. -/
theorem State.Engaged.bytesLeft_engine {s : State} {i : Instr} (h : s.Engaged i) (hcur : s.current = some i)
    (stepped : Bool) : bytesLeft i (s.engine stepped) = bytesLeft i s := by
  have hlen := congrArg (fun t : State => t.out.length) (h.completed_engine hcur stepped)
  simpa [State.completed_out_length] using hlen

@[simp] theorem bytesLeft_present (i : Instr) (s : State) (emit : Bool) :
    bytesLeft i (s.present emit) = bytesLeft i s := by
  have hlen := congrArg (fun t : State => t.out.length) (s.completed_present emit i)
  simp only [State.completed_out_length, State.present_out] at hlen
  exact Nat.add_left_cancel hlen

/-- Before an edge at which a byte is taken there was one more to take. -/
theorem bytesLeft_takeByte (i : Instr) (s : State) (outReady : Bool) :
    bytesLeft i (s.takeByte outReady) + (s.takenBytes outReady).length = bytesLeft i s := by
  have hlen := congrArg (fun t : State => t.out.length) (s.completed_takeByte outReady i)
  simp only [State.completed_out_length, State.takeByte_out, List.length_append] at hlen
  omega

/-- No more bytes are left than the command's output has. -/
theorem State.Engaged.bytesLeft_le {s : State} {i : Instr} (h : s.Engaged i) :
    bytesLeft i s ≤ (commandOutput i s).length := by
  have hpending := h.outq_suffix.length_le
  have hpushed := (commandPushed_prefix i s).length_le
  rw [bytesLeft, outputLeft, List.length_drop]
  omega

/-! ## One edge of a core at work -/

theorem State.engine_of_busy {s : State} (hbusy : s.busy = true) : s.engine true = s.work := by
  simp [State.engine, hbusy]

/-- After an edge at which no word is presented none is on offer, and `rst` is low. -/
def State.quietPorts (s : State) : State := { s with offered := none, rstHeld := 0 }

@[simp] theorem State.quietPorts_busy (s : State) : s.quietPorts.busy = s.busy := rfl

/-- A quiet edge completes the command in progress, when the engine is done and no byte is pending, or only moves it
on. -/
theorem State.clock_quiet_cases {s : State} (hbusy : s.busy = true) (outReady : Bool) (pace : Pace) :
    (((s.takeByte outReady).engine pace.bit).worked pace.bit = true ∧
      ((s.takeByte outReady).engine pace.bit).outq = [] ∧ (s.clock (Pins.quiet outReady) pace).idle = true) ∨
    ((((s.takeByte outReady).engine pace.bit).worked pace.bit = false ∨
      ((s.takeByte outReady).engine pace.bit).outq ≠ []) ∧
      s.clock (Pins.quiet outReady) pace =
        (((s.takeByte outReady).engine pace.bit).present pace.emit).quietPorts) := by
  have hclock : s.clock (Pins.quiet outReady) pace = (s.advance outReady pace).quietPorts :=
    State.clock_of_not_idle rfl (by simp [State.idle, hbusy]) pace
  rw [hclock, State.advance_eq]
  rcases State.retire_cases (((s.takeByte outReady).engine pace.bit).present pace.emit) pace.bit with
    ⟨hr, hleft⟩ | ⟨hr, hworked, hq⟩ <;> rw [hr]
  · exact .inr ⟨by simpa using hleft, rfl⟩
  · refine .inl ⟨by simpa using hworked, by simpa using hq, ?_⟩
    rw [State.idle_iff]
    exact ⟨rfl, hq⟩

/-- The idle core stays idle while no word is presented. -/
theorem State.clockQuiet_idle {s : State} (h : s.idle = true) (edges : List (Bool × Pace)) :
    (s.clockQuiet edges).idle = true := by
  induction edges generalizing s with
  | nil => exact h
  | cons e edges ih =>
    refine ih ?_
    rw [State.clock_of_idle rfl h]
    exact h

/-! ## Every command in progress completes -/

/-- How many edges at which everything may go on can at most come before the command in progress completes: one for each
bit step and each byte still to come, and one to present a byte. -/
def progressLeft (i : Instr) (s : State) : Nat := bitsLeft i s + bytesLeft i s + if s.shown then 0 else 1

/-- What the core keeps of its ports does not count. -/
@[simp] theorem progressLeft_quietPorts (i : Instr) (s : State) :
    progressLeft i s.quietPorts = progressLeft i s := by
  cases i <;> rfl

/-- Taking a byte leaves the next one to present. -/
theorem progressLeft_takeByte_le (i : Instr) (s : State) (outReady : Bool) :
    progressLeft i (s.takeByte outReady) ≤ progressLeft i s := by
  have hbytes := bytesLeft_takeByte i s outReady
  rw [progressLeft, progressLeft, bitsLeft_takeByte, ← hbytes]
  rcases s.takeByte_cases outReady with ⟨ht, -⟩ | ⟨b, rest, hq, hready, hshown, ht⟩
  · rw [ht]
    omega
  · have htaken : (s.takenBytes outReady).length = 1 := by
      simp [State.takenBytes, State.outValid_iff, hq, hready, hshown]
    rw [htaken, hshown]
    split_ifs <;> omega

theorem State.Engaged.progressLeft_engine_le {s : State} {i : Instr} (h : s.Engaged i) (hcur : s.current = some i)
    (stepped : Bool) : progressLeft i (s.engine stepped) ≤ progressLeft i s := by
  rw [progressLeft, progressLeft, h.bytesLeft_engine hcur, State.engine_shown]
  have := h.bitsLeft_engine_le hcur stepped
  omega

theorem progressLeft_present_le (i : Instr) (s : State) (emit : Bool) :
    progressLeft i (s.present emit) ≤ progressLeft i s := by
  rw [progressLeft, progressLeft, bitsLeft_present, bytesLeft_present]
  rcases s.present_cases emit with ⟨hp, -⟩ | ⟨hp, -⟩ <;> rw [hp]
  simp

/-- Presenting a pending byte when none is presented yet is progress. -/
theorem progressLeft_present_lt {i : Instr} {s : State} (hshown : s.shown = false) (hq : s.outq ≠ []) :
    progressLeft i (s.present true) < progressLeft i s := by
  rw [progressLeft, progressLeft, bitsLeft_present, bytesLeft_present]
  simp [State.present, hshown, hq]

/-- A host that is ready leaves no byte presented. -/
theorem State.takeByte_ready_shown {s : State} (h : s.shown = true → s.outq ≠ []) :
    (s.takeByte true).shown = false := by
  rcases s.takeByte_cases true with ⟨ht, hq | hready | hshown⟩ | ⟨b, rest, -, -, -, ht⟩ <;> rw [ht]
  · exact Bool.eq_false_iff.2 fun hs => h hs hq
  · cases hready
  · exact hshown

/-- At an edge at which everything may go on the engine makes a bit step, or, when it has none left, the next byte is
presented. -/
theorem State.Engaged.progressLeft_lt {s : State} {i : Instr} (h : s.Engaged i) (hcur : s.current = some i)
    (hbusy : s.busy = true) (hshown : s.shown = false)
    (hleft : (s.engine true).worked true = false ∨ (s.engine true).outq ≠ []) :
    progressLeft i ((s.engine true).present true) < progressLeft i s := by
  have hengine := State.engine_of_busy hbusy
  have hbits := h.bitsLeft_work hcur
  rcases Nat.eq_zero_or_pos (bitsLeft i s) with hzero | hpos
  · have hdone : (s.engine true).worked true = true := by
      rw [(h.engine hcur true).worked_iff (by simpa using hcur), hengine, hbits, hzero]
    have hq : (s.engine true).outq ≠ [] := by simpa [hdone] using hleft
    calc progressLeft i ((s.engine true).present true) < progressLeft i (s.engine true) :=
          progressLeft_present_lt (by simpa using hshown) hq
      _ ≤ progressLeft i s := h.progressLeft_engine_le hcur true
  · calc progressLeft i ((s.engine true).present true) ≤ progressLeft i (s.engine true) :=
          progressLeft_present_le i _ true
      _ < progressLeft i s := by
          rw [progressLeft, progressLeft, h.bytesLeft_engine hcur, State.engine_shown, hengine, hbits]
          omega

/-- No edge undoes progress, and one at which everything may go on makes some. -/
theorem State.Inv.progressLeft_clock {s : State} {i : Instr} (h : s.Inv) (hbusy : s.busy = true)
    (hcur : s.current = some i) (e : Bool × Pace) :
    (s.clock (Pins.quiet e.1) e.2).idle = true ∨
      ((s.clock (Pins.quiet e.1) e.2).busy = true ∧
        progressLeft i (s.clock (Pins.quiet e.1) e.2) + (if enabledEdge e then 1 else 0) ≤ progressLeft i s) := by
  obtain ⟨outReady, bit, emit⟩ := e
  have htaken := (h.inProgress_of_current hbusy hcur).engaged.takeByte outReady
  have hcur' : (s.takeByte outReady).current = some i := by simpa using hcur
  rcases State.clock_quiet_cases hbusy outReady ⟨bit, emit⟩ with ⟨-, -, hidle⟩ | ⟨hleft, hclock⟩
  · exact .inl hidle
  right
  rw [hclock, progressLeft_quietPorts]
  refine ⟨by simpa using hbusy, ?_⟩
  have htake := progressLeft_takeByte_le i s outReady
  by_cases henabled : enabledEdge (outReady, ⟨bit, emit⟩) = true
  · rw [if_pos henabled]
    obtain ⟨⟨rfl, rfl⟩, rfl⟩ : (outReady = true ∧ bit = true) ∧ emit = true := by simpa [enabledEdge] using henabled
    exact (htaken.progressLeft_lt hcur' (by simpa using hbusy) (State.takeByte_ready_shown h.shownPending)
      hleft).trans_le htake
  · rw [if_neg henabled]
    exact ((progressLeft_present_le i _ emit).trans (htaken.progressLeft_engine_le hcur' bit)).trans htake

/-- A command in progress completes, or each of the edges at which everything may go on has made progress. -/
theorem State.Inv.progressLeft_clockQuiet {s : State} {i : Instr} (h : s.Inv) (hbusy : s.busy = true)
    (hcur : s.current = some i) (edges : List (Bool × Pace)) :
    (s.clockQuiet edges).idle = true ∨ (edges.filter enabledEdge).length ≤ progressLeft i s := by
  induction edges generalizing s with
  | nil => exact .inr (Nat.zero_le _)
  | cons e edges ih =>
    have hidle : s.idle = false := by simp [State.idle, hbusy]
    rcases h.progressLeft_clock hbusy hcur e with hdone | ⟨hbusy', hless⟩
    · exact .inl (State.clockQuiet_idle hdone edges)
    · refine (ih (h.clock _ _) hbusy' ((State.clock_current rfl hidle _).trans hcur)).imp_right fun hcount => ?_
      rw [List.filter_cons]
      split_ifs with he
      · rw [if_pos he] at hless
        exact (Nat.succ_le_succ hcount).trans hless
      · rw [if_neg he] at hless
        exact hcount.trans hless

theorem bitsLeft_le (i : Instr) (s : State) : bitsLeft i s ≤ 64 := by
  cases i <;> simp only [bitsLeft] <;> omega

theorem commandOutput_length_le (i : Instr) (s : State) : (commandOutput i s).length ≤ 10 := by
  cases i <;> simp [commandOutput]

/-- Settles O41: a core still at work would have made progress more often than there is progress to make. -/
theorem acceptedCommandsComplete : Obligations.AcceptedCommandsComplete := by
  intro s edges h hcount
  cases hidle : s.idle with
  | true => exact State.clockQuiet_idle hidle edges
  | false =>
    have hbusy := h.busy_of_not_idle hidle
    obtain ⟨i, hcur, hi⟩ := h.busyLegal hbusy
    refine (h.progressLeft_clockQuiet hbusy hcur edges).resolve_right fun hle => ?_
    have hbits := bitsLeft_le i s
    have hbytes := hi.engaged.bytesLeft_le.trans (commandOutput_length_le i s)
    have hwait : (if s.shown then 0 else 1) ≤ 1 := by split_ifs <;> omega
    rw [progressLeft] at hle
    omega

/-! ## The reference pace -/

/-- How many bytes a command hands over with its last bit step (41_frame R117). -/
def lastBytes : Instr → Nat
  | .crcInit => 0
  | .crcUpdate _ => 0
  | .crcRead => 0
  | .frameReadMem _ _ _ => 2

/-- How many edges the command in progress has left at the reference pace: one for each bit step and then one for each
byte handed over with the last, or, when no bit step is left, one for each pending byte, and at least one. -/
def edgesLeft (i : Instr) (s : State) : Nat :=
  if bitsLeft i s = 0 then max 1 s.outq.length else bitsLeft i s + lastBytes i

/-- The core has kept the reference pace under a host that takes every byte at once: a pending byte is presented, and
while bit steps are left there is at most one. -/
def State.Prompt (s : State) (i : Instr) : Prop :=
  (s.outq ≠ [] → s.shown = true) ∧ (bitsLeft i s ≠ 0 → s.outq.length ≤ 1)

theorem edgesLeft_pos (i : Instr) (s : State) : 0 < edgesLeft i s := by
  unfold edgesLeft
  split_ifs <;> omega

@[simp] theorem edgesLeft_present (i : Instr) (s : State) (emit : Bool) :
    edgesLeft i (s.present emit) = edgesLeft i s := by
  rw [edgesLeft, edgesLeft, bitsLeft_present, State.present_outq]

@[simp] theorem edgesLeft_quietPorts (i : Instr) (s : State) : edgesLeft i s.quietPorts = edgesLeft i s := by
  cases i <;> rfl

theorem State.Prompt.quietPorts {s : State} {i : Instr} (h : s.Prompt i) : s.quietPorts.Prompt i := by
  cases i <;> exact h

/-- An edge from which a pending byte is presented leaves the core prompt, if no more than one waits for bit steps. -/
theorem State.present_prompt {s : State} {i : Instr} (h : bitsLeft i s ≠ 0 → s.outq.length ≤ 1) :
    (s.present true).Prompt i := by
  rw [State.Prompt, bitsLeft_present, State.present_outq]
  exact ⟨fun hq => by simp [State.present, hq], h⟩

/-- A ready host takes a presented byte. -/
theorem State.takeByte_ready_outq {s : State} (h : s.outq ≠ [] → s.shown = true) :
    (s.takeByte true).outq = s.outq.tail := by
  rcases s.takeByte_cases true with ⟨ht, hq | hready | hshown⟩ | ⟨b, rest, hq, -, -, ht⟩ <;> rw [ht]
  · rw [hq, List.tail_nil]
  · cases hready
  · by_cases hq : s.outq = []
    · rw [hq, List.tail_nil]
    · simp [h hq] at hshown
  · rw [hq, List.tail_cons]

/-- With no bit step left the engine hands over nothing. -/
theorem State.Engaged.work_outq_of_done {s : State} {i : Instr} (h : s.Engaged i) (hcur : s.current = some i)
    (hbits : bitsLeft i s = 0) : s.work.outq = s.outq := by
  rw [s.work_eq hcur]
  cases i with
  | crcInit => rfl
  | crcUpdate b => exact s.workUpdate_outq b
  | crcRead => rfl
  | frameReadMem tag sb nb =>
    have hidx : ¬ s.fidx.toNat < 8 := by
      obtain ⟨⟨-, hbit⟩ | ⟨hidx, -⟩, -⟩ := h
      · simp only [bitsLeft] at hbits
        omega
      · simp [hidx]
    simp [State.workFrame, hidx]

/-- A bit step of a frame hands over the byte it begins, if it begins one. -/
theorem State.foldFrame_outq_length (s : State) (tag : Byte) (sb nb : Word16) :
    (s.foldFrame tag sb nb).outq.length = s.outq.length + if s.firstBit then 1 else 0 := by
  unfold State.foldFrame
  dsimp only
  split_ifs <;> simp

/-- Onto an empty queue a bit step of a frame hands over the two bytes of the checksum, if it is the last, and otherwise
one byte at most. -/
theorem State.Engaged.workFrame_outq_length {s : State} {tag : Byte} {sb nb : Word16}
    (h : s.Engaged (.frameReadMem tag sb nb)) (hq : s.outq = []) (hbits : bitsLeft (.frameReadMem tag sb nb) s ≠ 0) :
    (bitsLeft (.frameReadMem tag sb nb) s = 1 → (s.workFrame tag sb nb).outq.length = 2) ∧
      (bitsLeft (.frameReadMem tag sb nb) s ≠ 1 → (s.workFrame tag sb nb).outq.length ≤ 1) := by
  have hbit8 : s.bitcnt.toNat < 8 := by
    obtain ⟨⟨-, hbit⟩ | ⟨-, hbit⟩, -⟩ := h <;> simp [hbit]
  simp only [bitsLeft] at hbits ⊢
  have hfold := s.foldFrame_outq_length tag sb nb
  rw [hq, List.length_nil, Nat.zero_add] at hfold
  have hle : (s.foldFrame tag sb nb).outq.length ≤ 1 := by rw [hfold]; split_ifs <;> omega
  rcases s.workFrame_cases tag sb nb with
    ⟨hidx, hw⟩ | ⟨hidx, hbit, hw⟩ | ⟨hidx, hbit, hw⟩ | ⟨hidx, hbit, hw⟩ <;> rw [hw]
  · omega
  · exact ⟨by omega, fun _ => hle⟩
  · exact ⟨by omega, fun _ => hle⟩
  · have hnot : ¬ s.firstBit = true := by
      rw [s.firstBit_iff]
      bv_omega
    rw [if_neg hnot] at hfold
    exact ⟨fun _ => by simp [List.length_append, hfold], by omega⟩

/-- Onto an empty queue a bit step hands over the command's last bytes, if it is the last one, and otherwise one byte at
most. -/
theorem State.Engaged.work_outq_length {s : State} {i : Instr} (h : s.Engaged i) (hcur : s.current = some i)
    (hq : s.outq = []) (hbits : bitsLeft i s ≠ 0) :
    (bitsLeft i s = 1 → s.work.outq.length = lastBytes i) ∧ (bitsLeft i s ≠ 1 → s.work.outq.length ≤ 1) := by
  rw [s.work_eq hcur]
  cases i with
  | crcInit => exact absurd rfl hbits
  | crcUpdate b => simp [hq, lastBytes]
  | crcRead => exact absurd rfl hbits
  | frameReadMem tag sb nb => exact h.workFrame_outq_length hq hbits

/-- What a prompt core has pending after the engine's step at an edge at which the host has taken the presented byte. -/
theorem State.Prompt.work_outq_length {s : State} {i : Instr} (h : s.Prompt i) (hi : s.Engaged i)
    (hcur : s.current = some i) :
    (bitsLeft i s = 0 → (s.takeByte true).work.outq.length = s.outq.length - 1) ∧
    (bitsLeft i s = 1 → (s.takeByte true).work.outq.length = lastBytes i) ∧
    (1 < bitsLeft i s → (s.takeByte true).work.outq.length ≤ 1) := by
  obtain ⟨hshown, hle⟩ := h
  have htaken := hi.takeByte true
  have hcur' : (s.takeByte true).current = some i := by simpa using hcur
  have houtq := State.takeByte_ready_outq hshown
  by_cases hzero : bitsLeft i s = 0
  · have hwork := htaken.work_outq_of_done hcur' (by simpa using hzero)
    simp [hzero, hwork, houtq]
  · have hempty : (s.takeByte true).outq = [] := by
      rw [houtq, ← List.length_eq_zero_iff, List.length_tail]
      exact Nat.sub_eq_zero_of_le (hle hzero)
    obtain ⟨hlast, hother⟩ := htaken.work_outq_length hcur' hempty (by simpa using hzero)
    rw [bitsLeft_takeByte] at hlast hother
    exact ⟨fun h => absurd h hzero, hlast, fun h => hother h.ne'⟩

/-- At the reference pace a prompt core completes its command with the last of the edges it has left, and otherwise
stays prompt with one edge fewer. -/
theorem State.Prompt.clock {s : State} {i : Instr} (h : s.Prompt i) (hi : s.Engaged i) (hbusy : s.busy = true)
    (hcur : s.current = some i) :
    ((s.clock (Pins.quiet true) Pace.reference).idle = true ∧ edgesLeft i s = 1) ∨
    ((s.clock (Pins.quiet true) Pace.reference).busy = true ∧ (s.clock (Pins.quiet true) Pace.reference).Prompt i ∧
      edgesLeft i s = edgesLeft i (s.clock (Pins.quiet true) Pace.reference) + 1) := by
  have htaken := hi.takeByte true
  have hcur' : (s.takeByte true).current = some i := by simpa using hcur
  have hengine := State.engine_of_busy (s := s.takeByte true) (by simpa using hbusy)
  have hworked := (htaken.work hcur').worked_iff (by simpa using hcur')
  have hbits := htaken.bitsLeft_work hcur'
  obtain ⟨hdone, hlast, hother⟩ := h.work_outq_length hi hcur
  have hcases := State.clock_quiet_cases hbusy true Pace.reference
  simp only [Pace.reference, hengine, ← Bool.not_eq_true, hworked, ne_eq, ← List.length_eq_zero_iff] at hcases
  rw [bitsLeft_takeByte] at hbits
  rcases hcases with ⟨hnobits, hnone, hidle⟩ | ⟨hleft, hclock⟩
  · refine .inl ⟨hidle, ?_⟩
    unfold edgesLeft
    split_ifs <;> omega
  · right
    simp only [Pace.reference, hclock]
    refine ⟨by simpa using hbusy, (State.present_prompt fun hne => ?_).quietPorts, ?_⟩
    · omega
    · rw [edgesLeft_quietPorts, edgesLeft_present, edgesLeft, edgesLeft]
      split_ifs <;> omega

/-- At the reference pace a prompt core is idle exactly once the edges it has left are over. -/
theorem State.Inv.clockReference_idle_iff {s : State} {i : Instr} (h : s.Inv) (hprompt : s.Prompt i)
    (hbusy : s.busy = true) (hcur : s.current = some i) (n : Nat) :
    (s.clockReference n).idle = true ↔ edgesLeft i s ≤ n := by
  induction n generalizing s with
  | zero =>
    have hpos := edgesLeft_pos i s
    simpa [State.clockReference, State.clockQuiet, State.idle, hbusy] using hpos.ne'
  | succ n ih =>
    have hidle : s.idle = false := by simp [State.idle, hbusy]
    have hi := (h.inProgress_of_current hbusy hcur).engaged
    have hunfold : s.clockReference (n + 1) =
        (s.clock (Pins.quiet true) Pace.reference).clockReference n := rfl
    rw [hunfold]
    rcases hprompt.clock hi hbusy hcur with ⟨hdone, hone⟩ | ⟨hbusy', hprompt', hmore⟩
    · exact iff_of_true (State.clockQuiet_idle hdone _) (by omega)
    · rw [ih (h.clock _ _) hprompt' hbusy' ((State.clock_current rfl hidle _).trans hcur), hmore]
      exact Nat.succ_le_succ_iff.symm

/-- An accepted command has the edges of the table left (70_reset R170). -/
theorem edgesLeft_start {s : State} (hq : s.outq = []) (w : Word48) (i : Instr) :
    edgesLeft i (s.start w i) = referenceCycles i := by
  cases i <;> simp [edgesLeft, bitsLeft, State.start, lastBytes, referenceCycles, hq]

/-- A command is accepted with no byte waiting for its bit steps. -/
theorem State.start_prompt {s : State} (hq : s.outq = []) (w : Word48) (i : Instr) :
    ((s.start w i).present true).Prompt i := by
  refine State.present_prompt fun hbits => ?_
  cases i with
  | crcInit => exact absurd rfl hbits
  | crcUpdate b => simp [State.start, hq]
  | crcRead => exact absurd rfl hbits
  | frameReadMem tag sb nb => simp [State.start, hq]

/-- Settles O40: the accepted command is prompt with the edges of the table left. -/
theorem referenceCycleCounts : Obligations.ReferenceCycleCounts := by
  rintro s w i n h ⟨hidle, -⟩ hdec
  obtain ⟨-, hq⟩ := s.idle_iff.1 hidle
  rw [State.clock_of_accepted (pins := Pins.presenting w) rfl hidle rfl hdec Pace.reference,
    ← edgesLeft_start hq w i, ← edgesLeft_present i _ true]
  exact ((h.start hidle hdec).present true).clockReference_idle_iff (State.start_prompt hq w i) (by simp)
    (by simpa using s.start_current hdec) n

end Sys2Proof.Machine

/-! # No move of the host

The other arm of the host's move list: `step_of_host` has the arm with a move to take. -/

namespace Sys2Proof.Machine

/-- Settles O30: the empty list's arm of `nextMove` answers the state it was given. -/
theorem noMoveNoChange : Obligations.NoMoveNoChange := by
  intro s hhost
  simp only [step, nextMove, hhost]

end Sys2Proof.Machine
